-- ==== Sys2Proof/Word.lean ====
section
/-! DEFINITION. The words the FP32 block handles (00_scope.md R5 `OPW`, 10_state.md R14, R15, 30_encoding.md R30). -/

namespace Sys2Proof

/-- A 32-bit pattern: every operand and every result (R24, R31). -/
abbrev Word := BitVec 32

/-- The 5-bit operation code carried by `cmd_op` (R14, R37). -/
abbrev OpCode := BitVec 5

/-- A command written as one word, `op ‖ rs1 ‖ rs2 ‖ rs3` (R30). -/
abbrev CmdWord := BitVec 101

end Sys2Proof
end

