-- ==== Sys2Proof/Config.lean ====
section
/-! DEFINITION. The parameters of the block (00_scope.md R5) and the values the spec leaves open. -/

namespace Sys2Proof.Config

/-- `OPW`: the width of every operand and result, fixed by the document (R5). -/
def opw : Nat := 32

/-- `QNAN_OUT`: the pattern of every NaN the block generates (R5, R55; the spec's decision D9; log entry 5). -/
def qnanOut : Word := 0x7FC00000#32

/-- `ILLEGAL_DATA`: `rsp_data` of an illegal response (R5, R110; the spec's decision D5; log entry 6). -/
def illegalData : Word := 0x00000000#32

/-- The two operations whose value the spec leaves open on some operands (R80, R81). -/
inductive F2iOp where
  /-- F2UI -/
  | f2ui
  /-- F2SI -/
  | f2si
  deriving DecidableEq, Repr

/-- `F2I_OOR(op, x)`: the result of a float-to-integer conversion outside the target range, of a NaN or of
an infinity (R5, R80, R81; D12). OPEN in the spec: it depends on the operation and the operand alone and
nothing else is known of it. A free value (log entry 2). -/
opaque f2iOor : F2iOp → Word → Word

/-- `LATENCY(op)`: OPEN in the spec; no rule depends on it, and nothing in this model reads it
(R5, R125; D3; log entry 7). -/
opaque latency : OpCode → Nat

/-- `rsp_data` while `rsp_valid = 0`: unspecified (R19, R120; U9). The `n`-th draw of a free value (log entry 3). -/
opaque freeRspData : Nat → Word

/-- `rsp_illegal` while `rsp_valid = 0`: unspecified (R19, R120; U9). The `n`-th draw of a free value (log entry 3). -/
opaque freeRspIllegal : Nat → Bool

end Sys2Proof.Config
end

