-- ==== Sys2Proof/Machine/Operands.lean ====
section
/-! DEFINITION. How an operand pattern is read (30_encoding.md R31, R33 to R35, R41;
40_flush_and_numeric_base.md R50, R58). No operand is flushed, extended, scaled or shifted on the way in. -/

namespace Sys2Proof.Machine

/-- `sign(x) = x[31]` (R33). -/
def sign (x : Word) : Bool := x.getLsbD 31

/-- `expo(x) = uint(x[30:23])` (R33). -/
def expo (x : Word) : Nat := (x.extractLsb' 23 8).toNat

/-- `mant(x) = uint(x[22:0])` (R33). -/
def mant (x : Word) : Nat := (x.extractLsb' 0 23).toNat

/-- R34 -/
def isZero (x : Word) : Bool := expo x == 0 && mant x == 0

/-- R34 -/
def isSub (x : Word) : Bool := expo x == 0 && mant x != 0

/-- R34 -/
def isNorm (x : Word) : Bool := decide (1 ≤ expo x) && decide (expo x ≤ 254)

/-- R34 -/
def isInf (x : Word) : Bool := expo x == 255 && mant x == 0

/-- R34 -/
def isNan (x : Word) : Bool := expo x == 255 && mant x != 0

/-- R34 -/
def isFinite (x : Word) : Bool := expo x != 255

/-- R35: quiet when the most significant mantissa bit is set. -/
def isQnan (x : Word) : Bool := isNan x && x.getLsbD 22

/-- R35: signaling when it is clear. -/
def isSnan (x : Word) : Bool := isNan x && !x.getLsbD 22

/-- The common denominator of all finite values: every `val(x)` is a whole number of `1 / scale = 2^(-149)`,
the smallest subnormal (R50). -/
def scale : Nat := 2 ^ 149

/-- `abs(val(x)) * scale` for a finite `x` (R50): `mant(x)` for a subnormal or a zero, and
`(2^23 + mant(x)) * 2^(expo(x) - 1)` for a normal. -/
def mag (x : Word) : Nat :=
  if expo x = 0 then mant x else (2 ^ 23 + mant x) * 2 ^ (expo x - 1)

/-- `val(x) * scale` for a finite `x` (R50): the exact value, unflushed (R58). -/
def scaled (x : Word) : Int := if sign x then -(mag x : Int) else (mag x : Int)

/-- `uint(x)` (R41). -/
def uint (x : Word) : Nat := x.toNat

/-- `sint(x)`: two's complement (R41). -/
def sint (x : Word) : Int := x.toInt

end Sys2Proof.Machine
end

