-- ==== Sys2Proof/Syntax.lean ====
section
/-! DEFINITION. The commands of the block: one constructor per row of spec/opcode_table.json
(30_encoding.md R30, R37, R39), what the table says of each row, and the pseudo-operations (R43). -/

namespace Sys2Proof

/-- A command (R30). Every row carries the three operand values of the `CMD` format, those an operation
ignores included (R38). The command names no destination, no rounding mode and no immediate (R30, R31). -/
inductive Instr where
  /-- FADD (R60). -/
  | fadd (rs1 rs2 rs3 : Word)
  /-- FSUB (R61). -/
  | fsub (rs1 rs2 rs3 : Word)
  /-- FMUL (R65). -/
  | fmul (rs1 rs2 rs3 : Word)
  /-- FMIN (R70). -/
  | fmin (rs1 rs2 rs3 : Word)
  /-- FMAX (R71). -/
  | fmax (rs1 rs2 rs3 : Word)
  /-- FEQ (R72). -/
  | feq (rs1 rs2 rs3 : Word)
  /-- FLT (R73). -/
  | flt (rs1 rs2 rs3 : Word)
  /-- FLE (R74). -/
  | fle (rs1 rs2 rs3 : Word)
  /-- F2UI (R80). -/
  | f2ui (rs1 rs2 rs3 : Word)
  /-- F2SI (R81). -/
  | f2si (rs1 rs2 rs3 : Word)
  /-- UI2F (R82). -/
  | ui2f (rs1 rs2 rs3 : Word)
  /-- SI2F (R83). -/
  | si2f (rs1 rs2 rs3 : Word)
  /-- FSGNJ (R90). -/
  | fsgnj (rs1 rs2 rs3 : Word)
  /-- FSGNJN (R91). -/
  | fsgnjn (rs1 rs2 rs3 : Word)
  /-- FSGNJX (R92). -/
  | fsgnjx (rs1 rs2 rs3 : Word)
  /-- FCLASS (R95). -/
  | fclass (rs1 rs2 rs3 : Word)
  /-- FLUSH (R56). -/
  | flush (rs1 rs2 rs3 : Word)
  /-- FDIV (R100). -/
  | fdiv (rs1 rs2 rs3 : Word)
  /-- FSQRT (R101). -/
  | fsqrt (rs1 rs2 rs3 : Word)
  /-- FMA (R102). -/
  | fma (rs1 rs2 rs3 : Word)
  /-- FMS (R103). -/
  | fms (rs1 rs2 rs3 : Word)
  /-- FNMS (R104). -/
  | fnms (rs1 rs2 rs3 : Word)
  /-- FNMA (R105). -/
  | fnma (rs1 rs2 rs3 : Word)
  /-- RESERVED_23 (R39). -/
  | reserved23 (rs1 rs2 rs3 : Word)
  /-- RESERVED_24 (R39). -/
  | reserved24 (rs1 rs2 rs3 : Word)
  /-- RESERVED_25 (R39). -/
  | reserved25 (rs1 rs2 rs3 : Word)
  /-- RESERVED_26 (R39). -/
  | reserved26 (rs1 rs2 rs3 : Word)
  /-- RESERVED_27 (R39). -/
  | reserved27 (rs1 rs2 rs3 : Word)
  /-- RESERVED_28 (R39). -/
  | reserved28 (rs1 rs2 rs3 : Word)
  /-- RESERVED_29 (R39). -/
  | reserved29 (rs1 rs2 rs3 : Word)
  /-- RESERVED_30 (R39). -/
  | reserved30 (rs1 rs2 rs3 : Word)
  /-- RESERVED_31 (R39). -/
  | reserved31 (rs1 rs2 rs3 : Word)
  deriving DecidableEq, Repr

namespace Instr

/-- The operation code of each row (R37, R39). -/
def opcode : Instr → OpCode
  | .fadd _ _ _ => 0b00000#5
  | .fsub _ _ _ => 0b00001#5
  | .fmul _ _ _ => 0b00010#5
  | .fmin _ _ _ => 0b00011#5
  | .fmax _ _ _ => 0b00100#5
  | .feq _ _ _ => 0b00101#5
  | .flt _ _ _ => 0b00110#5
  | .fle _ _ _ => 0b00111#5
  | .f2ui _ _ _ => 0b01000#5
  | .f2si _ _ _ => 0b01001#5
  | .ui2f _ _ _ => 0b01010#5
  | .si2f _ _ _ => 0b01011#5
  | .fsgnj _ _ _ => 0b01100#5
  | .fsgnjn _ _ _ => 0b01101#5
  | .fsgnjx _ _ _ => 0b01110#5
  | .fclass _ _ _ => 0b01111#5
  | .flush _ _ _ => 0b10000#5
  | .fdiv _ _ _ => 0b10001#5
  | .fsqrt _ _ _ => 0b10010#5
  | .fma _ _ _ => 0b10011#5
  | .fms _ _ _ => 0b10100#5
  | .fnms _ _ _ => 0b10101#5
  | .fnma _ _ _ => 0b10110#5
  | .reserved23 _ _ _ => 0b10111#5
  | .reserved24 _ _ _ => 0b11000#5
  | .reserved25 _ _ _ => 0b11001#5
  | .reserved26 _ _ _ => 0b11010#5
  | .reserved27 _ _ _ => 0b11011#5
  | .reserved28 _ _ _ => 0b11100#5
  | .reserved29 _ _ _ => 0b11101#5
  | .reserved30 _ _ _ => 0b11110#5
  | .reserved31 _ _ _ => 0b11111#5

/-- The mnemonic of each row, as R37 and the opcode table spell it. -/
def mnemonic : Instr → String
  | .fadd _ _ _ => "FADD"
  | .fsub _ _ _ => "FSUB"
  | .fmul _ _ _ => "FMUL"
  | .fmin _ _ _ => "FMIN"
  | .fmax _ _ _ => "FMAX"
  | .feq _ _ _ => "FEQ"
  | .flt _ _ _ => "FLT"
  | .fle _ _ _ => "FLE"
  | .f2ui _ _ _ => "F2UI"
  | .f2si _ _ _ => "F2SI"
  | .ui2f _ _ _ => "UI2F"
  | .si2f _ _ _ => "SI2F"
  | .fsgnj _ _ _ => "FSGNJ"
  | .fsgnjn _ _ _ => "FSGNJN"
  | .fsgnjx _ _ _ => "FSGNJX"
  | .fclass _ _ _ => "FCLASS"
  | .flush _ _ _ => "FLUSH"
  | .fdiv _ _ _ => "FDIV"
  | .fsqrt _ _ _ => "FSQRT"
  | .fma _ _ _ => "FMA"
  | .fms _ _ _ => "FMS"
  | .fnms _ _ _ => "FNMS"
  | .fnma _ _ _ => "FNMA"
  | .reserved23 _ _ _ => "RESERVED_23"
  | .reserved24 _ _ _ => "RESERVED_24"
  | .reserved25 _ _ _ => "RESERVED_25"
  | .reserved26 _ _ _ => "RESERVED_26"
  | .reserved27 _ _ _ => "RESERVED_27"
  | .reserved28 _ _ _ => "RESERVED_28"
  | .reserved29 _ _ _ => "RESERVED_29"
  | .reserved30 _ _ _ => "RESERVED_30"
  | .reserved31 _ _ _ => "RESERVED_31"

/-- The value carried by the operand field `rs1` (R30). -/
def rs1 : Instr → Word
  | .fadd v _ _ | .fsub v _ _ | .fmul v _ _ | .fmin v _ _ => v
  | .fmax v _ _ | .feq v _ _ | .flt v _ _ | .fle v _ _ => v
  | .f2ui v _ _ | .f2si v _ _ | .ui2f v _ _ | .si2f v _ _ => v
  | .fsgnj v _ _ | .fsgnjn v _ _ | .fsgnjx v _ _ | .fclass v _ _ => v
  | .flush v _ _ | .fdiv v _ _ | .fsqrt v _ _ | .fma v _ _ => v
  | .fms v _ _ | .fnms v _ _ | .fnma v _ _ | .reserved23 v _ _ => v
  | .reserved24 v _ _ | .reserved25 v _ _ | .reserved26 v _ _ | .reserved27 v _ _ => v
  | .reserved28 v _ _ | .reserved29 v _ _ | .reserved30 v _ _ | .reserved31 v _ _ => v

/-- The value carried by the operand field `rs2` (R30). -/
def rs2 : Instr → Word
  | .fadd _ v _ | .fsub _ v _ | .fmul _ v _ | .fmin _ v _ => v
  | .fmax _ v _ | .feq _ v _ | .flt _ v _ | .fle _ v _ => v
  | .f2ui _ v _ | .f2si _ v _ | .ui2f _ v _ | .si2f _ v _ => v
  | .fsgnj _ v _ | .fsgnjn _ v _ | .fsgnjx _ v _ | .fclass _ v _ => v
  | .flush _ v _ | .fdiv _ v _ | .fsqrt _ v _ | .fma _ v _ => v
  | .fms _ v _ | .fnms _ v _ | .fnma _ v _ | .reserved23 _ v _ => v
  | .reserved24 _ v _ | .reserved25 _ v _ | .reserved26 _ v _ | .reserved27 _ v _ => v
  | .reserved28 _ v _ | .reserved29 _ v _ | .reserved30 _ v _ | .reserved31 _ v _ => v

/-- The value carried by the operand field `rs3` (R30). -/
def rs3 : Instr → Word
  | .fadd _ _ v | .fsub _ _ v | .fmul _ _ v | .fmin _ _ v => v
  | .fmax _ _ v | .feq _ _ v | .flt _ _ v | .fle _ _ v => v
  | .f2ui _ _ v | .f2si _ _ v | .ui2f _ _ v | .si2f _ _ v => v
  | .fsgnj _ _ v | .fsgnjn _ _ v | .fsgnjx _ _ v | .fclass _ _ v => v
  | .flush _ _ v | .fdiv _ _ v | .fsqrt _ _ v | .fma _ _ v => v
  | .fms _ _ v | .fnms _ _ v | .fnma _ _ v | .reserved23 _ _ v => v
  | .reserved24 _ _ v | .reserved25 _ _ v | .reserved26 _ _ v | .reserved27 _ _ v => v
  | .reserved28 _ _ v | .reserved29 _ _ v | .reserved30 _ _ v | .reserved31 _ _ v => v

/-- The units the table of R37 assigns the operations to. -/
inductive FpUnit where
  /-- `fp32_adder` -/
  | adder
  /-- `fp32_multiplier` -/
  | multiplier
  /-- `fp32_comparator` -/
  | comparator
  /-- `fp32_converter_float_to_int` -/
  | floatToInt
  /-- `fp32_converter_int_to_float` -/
  | intToFloat
  /-- the one-bit sign selector in front of the `subnormal_flush_unit` -/
  | signSelector
  /-- `fp32_classifier` -/
  | classifier
  /-- `subnormal_flush_unit` -/
  | flushUnit
  /-- no unit of the block implements the code -/
  | noUnit
  deriving DecidableEq, Repr

/-- Which unit carries the operation out (R37; the spec's decision D4). -/
def unit : Instr → FpUnit
  | .fadd _ _ _ | .fsub _ _ _ => .adder
  | .fmul _ _ _ => .multiplier
  | .fmin _ _ _ | .fmax _ _ _ | .feq _ _ _ | .flt _ _ _ | .fle _ _ _ => .comparator
  | .f2ui _ _ _ | .f2si _ _ _ => .floatToInt
  | .ui2f _ _ _ | .si2f _ _ _ => .intToFloat
  | .fsgnj _ _ _ | .fsgnjn _ _ _ | .fsgnjx _ _ _ => .signSelector
  | .fclass _ _ _ => .classifier
  | .flush _ _ _ => .flushUnit
  | .fdiv _ _ _ | .fsqrt _ _ _ | .fma _ _ _ | .fms _ _ _ | .fnms _ _ _ | .fnma _ _ _ => .noUnit
  | .reserved23 _ _ _ | .reserved24 _ _ _ | .reserved25 _ _ _ | .reserved26 _ _ _ | .reserved27 _ _ _ => .noUnit
  | .reserved28 _ _ _ | .reserved29 _ _ _ | .reserved30 _ _ _ | .reserved31 _ _ _ => .noUnit

/-- The five kinds a result can have (R36), and the absence of a result. -/
inductive ResultKind where
  /-- a binary32 pattern -/
  | f32
  /-- a truth value, zero-extended -/
  | bool
  /-- an integer read by `uint` -/
  | u32
  /-- an integer read by `sint` -/
  | s32
  /-- a class mask, zero-extended -/
  | mask
  /-- no result: the code is illegal -/
  | noResult
  deriving DecidableEq, Repr

/-- The kind of an operation's result (R36, R37). -/
def resultKind : Instr → ResultKind
  | .fadd _ _ _ | .fsub _ _ _ | .fmul _ _ _ | .fmin _ _ _ | .fmax _ _ _ => .f32
  | .ui2f _ _ _ | .si2f _ _ _ | .fsgnj _ _ _ | .fsgnjn _ _ _ | .fsgnjx _ _ _ | .flush _ _ _ => .f32
  | .feq _ _ _ | .flt _ _ _ | .fle _ _ _ => .bool
  | .f2ui _ _ _ => .u32
  | .f2si _ _ _ => .s32
  | .fclass _ _ _ => .mask
  | .fdiv _ _ _ | .fsqrt _ _ _ | .fma _ _ _ | .fms _ _ _ | .fnms _ _ _ | .fnma _ _ _ => .noResult
  | .reserved23 _ _ _ | .reserved24 _ _ _ | .reserved25 _ _ _ | .reserved26 _ _ _ | .reserved27 _ _ _ => .noResult
  | .reserved28 _ _ _ | .reserved29 _ _ _ | .reserved30 _ _ _ | .reserved31 _ _ _ => .noResult

/-- How much of an operand field an operation reads (R37, R38). -/
inductive FieldUse where
  /-- the whole pattern -/
  | whole
  /-- bit 31 only -/
  | signBit
  /-- ignored -/
  | ignored
  deriving DecidableEq, Repr

/-- Which part of `rs1` the block reads (R37, R39). -/
def rs1Use : Instr → FieldUse
  | .fadd _ _ _ | .fsub _ _ _ | .fmul _ _ _ | .fmin _ _ _ | .fmax _ _ _ | .feq _ _ _ | .flt _ _ _ | .fle _ _ _ => .whole
  | .f2ui _ _ _ | .f2si _ _ _ | .ui2f _ _ _ | .si2f _ _ _ => .whole
  | .fsgnj _ _ _ | .fsgnjn _ _ _ | .fsgnjx _ _ _ | .fclass _ _ _ | .flush _ _ _ => .whole
  | .fdiv _ _ _ | .fsqrt _ _ _ | .fma _ _ _ | .fms _ _ _ | .fnms _ _ _ | .fnma _ _ _ => .ignored
  | .reserved23 _ _ _ | .reserved24 _ _ _ | .reserved25 _ _ _ | .reserved26 _ _ _ | .reserved27 _ _ _ => .ignored
  | .reserved28 _ _ _ | .reserved29 _ _ _ | .reserved30 _ _ _ | .reserved31 _ _ _ => .ignored

/-- Which part of `rs2` the block reads (R37, R39). -/
def rs2Use : Instr → FieldUse
  | .fadd _ _ _ | .fsub _ _ _ | .fmul _ _ _ | .fmin _ _ _ | .fmax _ _ _ | .feq _ _ _ | .flt _ _ _ | .fle _ _ _ => .whole
  | .fsgnj _ _ _ | .fsgnjn _ _ _ | .fsgnjx _ _ _ => .signBit
  | .f2ui _ _ _ | .f2si _ _ _ | .ui2f _ _ _ | .si2f _ _ _ | .fclass _ _ _ | .flush _ _ _ => .ignored
  | .fdiv _ _ _ | .fsqrt _ _ _ | .fma _ _ _ | .fms _ _ _ | .fnms _ _ _ | .fnma _ _ _ => .ignored
  | .reserved23 _ _ _ | .reserved24 _ _ _ | .reserved25 _ _ _ | .reserved26 _ _ _ | .reserved27 _ _ _ => .ignored
  | .reserved28 _ _ _ | .reserved29 _ _ _ | .reserved30 _ _ _ | .reserved31 _ _ _ => .ignored

/-- The block implements the code: codes 0 to 16 (R37, R111). -/
def implemented (i : Instr) : Bool := decide (i.opcode.toNat ≤ 16)

/-- `FMOV a`, a pseudo-operation (R43). -/
abbrev fmov (a : Word) : Instr := .fsgnj a a 0#32

/-- `FNEG a`, a pseudo-operation (R43). -/
abbrev fneg (a : Word) : Instr := .fsgnjn a a 0#32

/-- `FABS a`, a pseudo-operation (R43). -/
abbrev fabs (a : Word) : Instr := .fsgnjx a a 0#32

end Instr

end Sys2Proof
end

