-- ==== Sys2Proof/WellFormed.lean ====
section
/-! DEFINITION. Well-formed commands (30_encoding.md R30): a command as four plain numbers, as a host or a
listing writes it, is well-formed when each number fits its field. The operand values themselves are free:
every 32-bit pattern is a legal operand (R31, R130), and every 5-bit code is a legal code that has a
response (R16, R39). -/

namespace Sys2Proof

/-- A command as four numbers, not yet known to fit the fields of R30. -/
structure RawCmd where
  op : Nat
  rs1 : Nat
  rs2 : Nat
  rs3 : Nat
  deriving DecidableEq, Repr

namespace RawCmd

/-- `op` has 5 bits (R30). -/
def opFits (c : RawCmd) : Bool := decide (c.op < 2 ^ 5)

/-- `rs1` has 32 bits (R30). -/
def rs1Fits (c : RawCmd) : Bool := decide (c.rs1 < 2 ^ 32)

/-- `rs2` has 32 bits (R30). -/
def rs2Fits (c : RawCmd) : Bool := decide (c.rs2 < 2 ^ 32)

/-- `rs3` has 32 bits (R30). -/
def rs3Fits (c : RawCmd) : Bool := decide (c.rs3 < 2 ^ 32)

/-- Each of the four numbers fits its field (R30). -/
def wellFormed (c : RawCmd) : Bool := c.opFits && c.rs1Fits && c.rs2Fits && c.rs3Fits

end RawCmd

/-- The four numbers of a command. -/
def Instr.raw (i : Instr) : RawCmd :=
  { op := i.opcode.toNat, rs1 := i.rs1.toNat, rs2 := i.rs2.toNat, rs3 := i.rs3.toNat }

/-- A command is well-formed when its four numbers fit R30's fields; the widths of `Instr`'s types make
that true of every command (Laws/Decode.lean). -/
def Instr.wellFormed (i : Instr) : Bool := i.raw.wellFormed

end Sys2Proof
end

