-- ==== Sys2Proof/Decode.lean ====
section
/-! DEFINITION. Decoding and encoding of commands (30_encoding.md R30, R31, R37, R39): the decoder of the
command port, the decoder of a raw command or of a command word, which rejects by name, and the encoder. -/

namespace Sys2Proof

/-- Why four numbers are no command of the `CMD` format (R30). -/
inductive DecodeError where
  /-- the operation code does not fit 5 bits -/
  | opTooWide
  /-- `rs1` does not fit 32 bits -/
  | rs1TooWide
  /-- `rs2` does not fit 32 bits -/
  | rs2TooWide
  /-- `rs3` does not fit 32 bits -/
  | rs3TooWide
  deriving DecidableEq, Repr

/-- The decoder of the command port (R37, R39): it looks at `op` alone, bit 4 first, and is total. The
operand fields are taken as they are (R31). -/
def decodeCmd (op : OpCode) (rs1 rs2 rs3 : Word) : Instr :=
  match op.getLsbD 4, op.getLsbD 3, op.getLsbD 2, op.getLsbD 1, op.getLsbD 0 with
  | false, false, false, false, false => .fadd rs1 rs2 rs3
  | false, false, false, false, true => .fsub rs1 rs2 rs3
  | false, false, false, true, false => .fmul rs1 rs2 rs3
  | false, false, false, true, true => .fmin rs1 rs2 rs3
  | false, false, true, false, false => .fmax rs1 rs2 rs3
  | false, false, true, false, true => .feq rs1 rs2 rs3
  | false, false, true, true, false => .flt rs1 rs2 rs3
  | false, false, true, true, true => .fle rs1 rs2 rs3
  | false, true, false, false, false => .f2ui rs1 rs2 rs3
  | false, true, false, false, true => .f2si rs1 rs2 rs3
  | false, true, false, true, false => .ui2f rs1 rs2 rs3
  | false, true, false, true, true => .si2f rs1 rs2 rs3
  | false, true, true, false, false => .fsgnj rs1 rs2 rs3
  | false, true, true, false, true => .fsgnjn rs1 rs2 rs3
  | false, true, true, true, false => .fsgnjx rs1 rs2 rs3
  | false, true, true, true, true => .fclass rs1 rs2 rs3
  | true, false, false, false, false => .flush rs1 rs2 rs3
  | true, false, false, false, true => .fdiv rs1 rs2 rs3
  | true, false, false, true, false => .fsqrt rs1 rs2 rs3
  | true, false, false, true, true => .fma rs1 rs2 rs3
  | true, false, true, false, false => .fms rs1 rs2 rs3
  | true, false, true, false, true => .fnms rs1 rs2 rs3
  | true, false, true, true, false => .fnma rs1 rs2 rs3
  | true, false, true, true, true => .reserved23 rs1 rs2 rs3
  | true, true, false, false, false => .reserved24 rs1 rs2 rs3
  | true, true, false, false, true => .reserved25 rs1 rs2 rs3
  | true, true, false, true, false => .reserved26 rs1 rs2 rs3
  | true, true, false, true, true => .reserved27 rs1 rs2 rs3
  | true, true, true, false, false => .reserved28 rs1 rs2 rs3
  | true, true, true, false, true => .reserved29 rs1 rs2 rs3
  | true, true, true, true, false => .reserved30 rs1 rs2 rs3
  | true, true, true, true, true => .reserved31 rs1 rs2 rs3

/-- The decoder of a raw command: each number must fit its field of R30, or the command is rejected by name. -/
def decodeRaw (c : RawCmd) : Except DecodeError Instr :=
  if c.opFits = false then .error .opTooWide
  else if c.rs1Fits = false then .error .rs1TooWide
  else if c.rs2Fits = false then .error .rs2TooWide
  else if c.rs3Fits = false then .error .rs3TooWide
  else .ok (decodeCmd (BitVec.ofNat 5 c.op) (BitVec.ofNat 32 c.rs1) (BitVec.ofNat 32 c.rs2) (BitVec.ofNat 32 c.rs3))

/-- The fields of a command word (R30): `rs3` in bits 31:0, `rs2` in bits 63:32, `rs1` in bits 95:64, and
everything above as the operation code, so that a number wider than 101 bits has too wide a code. -/
def rawOfWord (w : Nat) : RawCmd :=
  { op := w / 2 ^ 96, rs1 := w / 2 ^ 64 % 2 ^ 32, rs2 := w / 2 ^ 32 % 2 ^ 32, rs3 := w % 2 ^ 32 }

/-- The decoder of a command word given as a number (R30). -/
def decodeWord (w : Nat) : Except DecodeError Instr := decodeRaw (rawOfWord w)

/-- The number of a command word of which only the low `nbits` bits are given: every bit above them is 0. -/
def wordOfBits (nbits w : Nat) : Nat := if nbits < 101 then w % 2 ^ nbits else w

/-- The instruction the decoder reads from a word whose bits are numbered as the opcode table numbers them.
A command is one 101-bit word, so the table's numbering is that of R30 (log entry 4). -/
def decodeTableWord (nbits w : Nat) : Option Instr :=
  match decodeWord (wordOfBits nbits w) with
  | .ok i => some i
  | .error _ => none

/-- The encoder: the command word `op ‖ rs1 ‖ rs2 ‖ rs3` (R30). -/
def encode (i : Instr) : CmdWord := i.opcode ++ i.rs1 ++ i.rs2 ++ i.rs3

end Sys2Proof
end

