-- ==== Sys2Proof/Machine/State.lean ====
section
/-! DEFINITION. The state of the machine: the ports of the block (10_state.md R14, R15), its reset line
(70_reset_and_hazards.md R120) and the moves its host has still to make. The block itself holds no register,
no program counter, no flag, no control register and no memory (R10 to R13, R17, R18, R20). -/

namespace Sys2Proof.Machine

/-- No step of this machine ends in a fault. The block's one fault, the illegal operation, is a RESPONSE and
the machine goes on (R16, R110), so it is a next state; the step is total and the block is never stuck
(R16, R111). Nobody raises a `Fault`; having none is safe, because every command's response is the rules'. -/
inductive Fault
  deriving DecidableEq, Repr

/-- Why a command has no meaning. -/
inductive Refusal where
  /-- Raised by an arm of `exec` whose instruction has no meaning yet (none is left); safe, it refuses. -/
  | notModelled (mnemonic : String)
  deriving DecidableEq, Repr

/-- The command port, inputs of the block (R14). -/
structure CmdPort where
  /-- `cmd_valid`: a command is presented -/
  valid : Bool
  /-- `cmd_op` -/
  op : OpCode
  /-- `cmd_rs1` -/
  rs1 : Word
  /-- `cmd_rs2` -/
  rs2 : Word
  /-- `cmd_rs3` -/
  rs3 : Word
  deriving DecidableEq, Repr

/-- The response port, outputs of the block (R15). -/
structure RspPort where
  /-- `rsp_valid`: a response is presented -/
  valid : Bool
  /-- `rsp_data` -/
  data : Word
  /-- `rsp_illegal`: the command selected an operation the block does not implement -/
  illegal : Bool
  deriving DecidableEq, Repr

/-- What drives the block in one step: its reset line (R120) and its command port (R14). -/
structure Pins where
  /-- the block is being reset (R120; the line is the model's name for the event, log entry 8) -/
  rst : Bool
  cmd : CmdPort
  deriving DecidableEq, Repr

/-- The state. -/
structure State where
  /-- what drives the block in the step to come -/
  pins : Pins
  /-- the response port, as the last step left it -/
  rsp : RspPort
  /-- what the host will drive in the steps after that, in order: the host's free choice
  (00_scope.md section 7 items 8 and 9; the model's own field, log entry 8) -/
  inputs : List Pins
  /-- how many free values of the silent response port have been drawn (the model's own field, log entry 3) -/
  draws : Nat
  deriving DecidableEq, Repr

/-- The command port of a command (R30): its fields on the wires, `cmd_valid = 1`. -/
def CmdPort.ofInstr (i : Instr) : CmdPort :=
  { valid := true, op := i.opcode, rs1 := i.rs1, rs2 := i.rs2, rs3 := i.rs3 }

/-- The host presents the command `i`. -/
def Pins.present (i : Instr) : Pins := { rst := false, cmd := CmdPort.ofInstr i }

/-- The host presents nothing: `cmd_valid = 0`. -/
def Pins.idle : Pins := { rst := false, cmd := { valid := false, op := 0, rs1 := 0, rs2 := 0, rs3 := 0 } }

/-- A response carrying a result (R16). -/
def RspPort.result (data : Word) : RspPort := { valid := true, data := data, illegal := false }

/-- The machine right after reset (R19, R120 to R122): `rsp_valid = 0` and no response pending. `rsp_data` and
`rsp_illegal` are unspecified there, and the host presents no command yet: the values named for them are in
log entry 1 (DESIGN CHOICE). -/
def State.reset : State :=
  { pins := Pins.idle, rsp := { valid := false, data := 0#32, illegal := false }, inputs := [], draws := 0 }

/-- The state with another response on the response port. -/
def State.withRsp (s : State) (r : RspPort) : State := { s with rsp := r }

/-- The state driven by other pins. -/
def State.withPins (s : State) (p : Pins) : State := { s with pins := p }

end Sys2Proof.Machine
end

