-- ==== Sys2Proof/Machine/Ops.lean ====
section
/-! DEFINITION. The shared operations: rounding and the flush (40_flush_and_numeric_base.md), the two answers
the block gives (10_state.md R16, 60_exceptions.md R110), silence, and how the ports move on. -/

namespace Sys2Proof.Machine

/-! ### Patterns -/

/-- `s ‖ bits8(e) ‖ bits23(m)` (R33, R53). -/
def pack (s : Bool) (e m : Nat) : Word := BitVec.ofBool s ++ BitVec.ofNat 8 e ++ BitVec.ofNat 23 m

/-- `s ‖ {0}^31`: the zero of sign `s`. -/
def zeroOf (s : Bool) : Word := pack s 0 0

/-- `s ‖ 0xFF ‖ {0}^23`: the infinity of sign `s`. -/
def infOf (s : Bool) : Word := pack s 255 0

/-- The pattern of a NaN the block generates (R55). -/
def generatedNan : Word := Config.qnanOut

/-- `neg(x) = x xor 0x80000000` (R50). -/
def neg (x : Word) : Word := x ^^^ 0x80000000#32

/-- `flush(x)`, the function of the `subnormal_flush_unit` (R54). -/
def flush (x : Word) : Word := if isSub x then zeroOf (sign x) else x

/-! ### Rounding -/

/-- `rne_int(num / den)`: the nearest integer, ties to even (R51). -/
def rneInt (num : Int) (den : Nat) : Int :=
  let f := num / (den : Int)
  let r := num % (den : Int)
  if 2 * r < den then f
  else if den < 2 * r then f + 1
  else if f % 2 = 0 then f else f + 1

/-- The pattern of the rounded magnitude `v / scale` (R53, from `if v >= 2^128` on). -/
def packMag (s : Bool) (v : Nat) : Word :=
  if 2 ^ 128 * scale ≤ v then infOf s
  else if v < 2 ^ 23 then pack s 0 v
  else pack s (Nat.log2 v - 22) (v / 2 ^ (Nat.log2 v - 23) - 2 ^ 23)

/-- `round_rne(s, num / den)` (R53). In units of `1 / scale` the magnitude is `num * scale / den`, and R53's
`quantum = 2^(max(E, -126) - 23)` is `2^k`. -/
def roundRne (s : Bool) (num den : Nat) : Word :=
  if num = 0 then zeroOf s
  else
    let k := Nat.log2 (num * scale / den) - 23
    packMag s ((rneInt ((num * scale : Nat) : Int) (den * 2 ^ k)).toNat * 2 ^ k)

/-! ### Answers -/

/-- The outcome of a step of this machine. -/
abbrev Result := Host.Outcome State Fault Refusal

/-- The response of an implemented operation: the result, `rsp_illegal = 0` (R16). -/
def answer (data : Word) (s : State) : Result := .next (s.withRsp (RspPort.result data))

/-- The response to an illegal code (R110). -/
def illegalRsp : RspPort := { valid := true, data := Config.illegalData, illegal := true }

/-- `raise IllegalOperation` (R110): the response says illegal and nothing is recorded. The block takes no
trap, so there is no saved state, no handler address and no return (R115). -/
def raiseIllegal (s : State) : Result := .next (s.withRsp illegalRsp)

/-- No response is presented: `rsp_valid = 0`, the other two ports unspecified (R16, R19, R120), each a fresh
free value. -/
def silent (s : State) : State :=
  { s with
    rsp := { valid := false, data := Config.freeRspData s.draws, illegal := Config.freeRspIllegal s.draws }
    draws := s.draws + 1 }

/-! ### The ports between steps -/

/-- The command the block takes from the command port (R16, R26). -/
def fetch (s : State) : Instr := decodeCmd s.pins.cmd.op s.pins.cmd.rs1 s.pins.cmd.rs2 s.pins.cmd.rs3

/-- The host withdraws the command it presented. -/
def withdraw (p : Pins) : Pins := { rst := false, cmd := { p.cmd with valid := false } }

/-- After a step the host drives its next pins; when it has no further move it withdraws the command
(log entry 8). -/
def advance (s : State) : State :=
  match s.inputs with
  | [] => { s with pins := withdraw s.pins }
  | p :: ps => { s with pins := p, inputs := ps }

/-- The ports move on after a command is answered. -/
def thenAdvance : Result → Result
  | .next s => .next (advance s)
  | .fault f => .fault f
  | .refused r => .refused r

/-- The pins that present a raw command, each number cut to its wires (R14, R30). -/
def pinsOfRaw (c : RawCmd) : Pins :=
  { rst := false
    cmd :=
      { valid := true
        op := BitVec.ofNat 5 c.op
        rs1 := BitVec.ofNat 32 c.rs1
        rs2 := BitVec.ofNat 32 c.rs2
        rs3 := BitVec.ofNat 32 c.rs3 } }

end Sys2Proof.Machine
end

