-- ==== Sys2Proof/Machine/Adder.lean ====
section
/-! DEFINITION. The unit `fp32_adder`: FADD and FSUB (41_adder.md). -/

namespace Sys2Proof.Machine

/-- `add_native(a, b)` (R62): the exact sum, rounded once. -/
def addNative (a b : Word) : Word :=
  if isNan a || isNan b then generatedNan
  else if isInf a && isInf b then (if sign a = sign b then a else generatedNan)
  else if isInf a then a
  else if isInf b then b
  else
    let t := scaled a + scaled b
    if t = 0 then (if sign a = sign b then zeroOf (sign a) else zeroOf false)
    else if 0 < t then roundRne false t.natAbs scale
    else roundRne true t.natAbs scale

/-- FADD (R60). -/
def execFadd (rs1 rs2 : Word) (s : State) : Result := answer (flush (addNative rs1 rs2)) s

/-- FSUB (R61). -/
def execFsub (rs1 rs2 : Word) (s : State) : Result := answer (flush (addNative rs1 (neg rs2))) s

end Sys2Proof.Machine
end

