-- ==== Sys2Proof/Machine/Classifier.lean ====
section
/-! DEFINITION. The unit `fp32_classifier`: FCLASS (46_classifier.md). -/

namespace Sys2Proof.Machine

/-- `FCLASS(x)` (R95): one bit of bits 9:0, from the raw pattern; the operand is not flushed. -/
def classify (x : Word) : Word :=
  if isNan x then (if x.getLsbD 22 then 0x00000200#32 else 0x00000100#32)
  else if isInf x then (if sign x then 0x00000001#32 else 0x00000080#32)
  else if isNorm x then (if sign x then 0x00000002#32 else 0x00000040#32)
  else if isSub x then (if sign x then 0x00000004#32 else 0x00000020#32)
  else (if sign x then 0x00000008#32 else 0x00000010#32)

/-- FCLASS (R95). -/
def execFclass (rs1 : Word) (s : State) : Result := answer (classify rs1) s

end Sys2Proof.Machine
end

