-- ==== Sys2Proof/Machine/Flags.lean ====
section
/-! DEFINITION. The order of two patterns and truth values (43_comparator.md R75, 30_encoding.md R36). The
block has no status flag, condition code or exception flag (10_state.md R13): a comparison's outcome is data. -/

namespace Sys2Proof.Machine

/-- `ext(x)` of R75, a finite value counted in units of `1 / scale`. -/
inductive Ext where
  /-- minus infinity -/
  | negInf
  /-- a finite value -/
  | fin (n : Int)
  /-- plus infinity -/
  | posInf
  deriving DecidableEq, Repr

/-- `ext(x)` for a pattern that is not a NaN (R75). -/
def ext (x : Word) : Ext :=
  if isInf x then (if sign x then .negInf else .posInf) else .fin (scaled x)

/-- Minus infinity is below every rational and plus infinity above (R75). -/
def Ext.lt : Ext → Ext → Bool
  | .negInf, .negInf => false
  | .negInf, .fin _ => true
  | .negInf, .posInf => true
  | .fin _, .negInf => false
  | .fin m, .fin n => decide (m < n)
  | .fin _, .posInf => true
  | .posInf, .negInf => false
  | .posInf, .fin _ => false
  | .posInf, .posInf => false

/-- `less(a, b)` (R75). -/
def less (a b : Word) : Bool := (ext a).lt (ext b)

/-- `greater(a, b)` (R75). -/
def greater (a b : Word) : Bool := (ext b).lt (ext a)

/-- A truth value as a result: `0x00000001` or `0x00000000` (R36). -/
def truth (b : Bool) : Word := if b then 0x00000001#32 else 0x00000000#32

end Sys2Proof.Machine
end

