-- ==== Sys2Proof/Machine/Comparator.lean ====
section
/-! DEFINITION. The unit `fp32_comparator`: FMIN, FMAX, FEQ, FLT and FLE (43_comparator.md). -/

namespace Sys2Proof.Machine

/-- The two operands are a minus zero and a plus zero, in either order (R70 and R71, case 3). -/
def mixedZeros (a b : Word) : Bool :=
  (a == 0x80000000#32 && b == 0x00000000#32) || (a == 0x00000000#32 && b == 0x80000000#32)

/-- `FMIN(a, b)`, the four cases of R70 in their order. Cases 1 to 3 return their value unflushed
(90_conflicts.md C3). -/
def fmin (a b : Word) : Word :=
  if isNan a && isNan b then generatedNan
  else if isNan a then b
  else if isNan b then a
  else if mixedZeros a b then 0x80000000#32
  else if less a b then flush a else flush b

/-- `FMAX(a, b)`, the four cases of R71 in their order. -/
def fmax (a b : Word) : Word :=
  if isNan a && isNan b then generatedNan
  else if isNan a then b
  else if isNan b then a
  else if mixedZeros a b then 0x00000000#32
  else if greater a b then flush a else flush b

/-- A comparison is false when either operand is a NaN, and nothing is signalled (R72 to R74, R112). -/
def ordered (a b : Word) (holds : Bool) : Word := truth (!(isNan a || isNan b) && holds)

/-- FMIN (R70). -/
def execFmin (rs1 rs2 : Word) (s : State) : Result := answer (fmin rs1 rs2) s

/-- FMAX (R71). -/
def execFmax (rs1 rs2 : Word) (s : State) : Result := answer (fmax rs1 rs2) s

/-- FEQ (R72): neither less nor greater. -/
def execFeq (rs1 rs2 : Word) (s : State) : Result :=
  answer (ordered rs1 rs2 (!less rs1 rs2 && !greater rs1 rs2)) s

/-- FLT (R73). -/
def execFlt (rs1 rs2 : Word) (s : State) : Result := answer (ordered rs1 rs2 (less rs1 rs2)) s

/-- FLE (R74): not greater. -/
def execFle (rs1 rs2 : Word) (s : State) : Result := answer (ordered rs1 rs2 (!greater rs1 rs2)) s

end Sys2Proof.Machine
end

