-- ==== Sys2Proof/Machine/Converters.lean ====
section
/-! DEFINITION. The units `fp32_converter_float_to_int` and `fp32_converter_int_to_float`: F2UI, F2SI, UI2F
and SI2F (44_converters.md). -/

namespace Sys2Proof.Machine

/-- `to_bits32(z)` (00_scope.md section 5). -/
def toBits32 (z : Int) : Word := BitVec.ofInt 32 z

/-- The nearest integer of a float, kept when it lies between `lo` and `hi`; outside, and for an infinity or a
NaN, the value is OPEN: `F2I_OOR(op, x)` (R80, R81). -/
def floatToInt (op : Config.F2iOp) (lo hi : Int) (x : Word) : Word :=
  if isNan x || isInf x then Config.f2iOor op x
  else
    let n := rneInt (scaled x) scale
    if lo ≤ n ∧ n ≤ hi then toBits32 n else Config.f2iOor op x

/-- F2UI (R80). -/
def execF2ui (rs1 : Word) (s : State) : Result := answer (floatToInt .f2ui 0 (2 ^ 32 - 1) rs1) s

/-- F2SI (R81). -/
def execF2si (rs1 : Word) (s : State) : Result := answer (floatToInt .f2si (-2 ^ 31) (2 ^ 31 - 1) rs1) s

/-- The binary32 result of an integer (R82, R83). -/
def intToFloat (n : Int) : Word := flush (roundRne (decide (n < 0)) n.natAbs 1)

/-- UI2F (R82). -/
def execUi2f (rs1 : Word) (s : State) : Result := answer (intToFloat (uint rs1)) s

/-- SI2F (R83). -/
def execSi2f (rs1 : Word) (s : State) : Result := answer (intToFloat (sint rs1)) s

end Sys2Proof.Machine
end

