-- ==== Sys2Proof/Machine/FlushUnit.lean ====
section
/-! DEFINITION. The `subnormal_flush_unit` on its own: FLUSH (40_flush_and_numeric_base.md R56). -/

namespace Sys2Proof.Machine

/-- FLUSH (R56). -/
def execFlush (rs1 : Word) (s : State) : Result := answer (flush rs1) s

end Sys2Proof.Machine
end

