-- ==== Sys2Proof/Machine/Illegal.lean ====
section
/-! DEFINITION. The codes the block answers as illegal: the six operations no unit implements
(47_reference_only.md R100 to R105, R108) and the nine reserved codes (30_encoding.md R39). Each takes the
block's one fault, whatever its operands: an illegal response, after which the machine goes on (60_exceptions.md R110). -/

namespace Sys2Proof.Machine

/-- FDIV (R100, R108): the operands its code names play no part. -/
def execFdiv (_rs1 _rs2 : Word) (s : State) : Result := raiseIllegal s

/-- FSQRT (R101, R108): the operands its code names play no part. -/
def execFsqrt (_rs1 : Word) (s : State) : Result := raiseIllegal s

/-- FMA (R102, R108): the operands its code names play no part. -/
def execFma (_rs1 _rs2 _rs3 : Word) (s : State) : Result := raiseIllegal s

/-- FMS (R103, R108): the operands its code names play no part. -/
def execFms (_rs1 _rs2 _rs3 : Word) (s : State) : Result := raiseIllegal s

/-- FNMS (R104, R108): the operands its code names play no part. -/
def execFnms (_rs1 _rs2 _rs3 : Word) (s : State) : Result := raiseIllegal s

/-- FNMA (R105, R108): the operands its code names play no part. -/
def execFnma (_rs1 _rs2 _rs3 : Word) (s : State) : Result := raiseIllegal s

/-- Reserved code 23 (R39). -/
def execReserved23 (s : State) : Result := raiseIllegal s

/-- Reserved code 24 (R39). -/
def execReserved24 (s : State) : Result := raiseIllegal s

/-- Reserved code 25 (R39). -/
def execReserved25 (s : State) : Result := raiseIllegal s

/-- Reserved code 26 (R39). -/
def execReserved26 (s : State) : Result := raiseIllegal s

/-- Reserved code 27 (R39). -/
def execReserved27 (s : State) : Result := raiseIllegal s

/-- Reserved code 28 (R39). -/
def execReserved28 (s : State) : Result := raiseIllegal s

/-- Reserved code 29 (R39). -/
def execReserved29 (s : State) : Result := raiseIllegal s

/-- Reserved code 30 (R39). -/
def execReserved30 (s : State) : Result := raiseIllegal s

/-- Reserved code 31 (R39). -/
def execReserved31 (s : State) : Result := raiseIllegal s

end Sys2Proof.Machine
end

