-- ==== Sys2Proof/Machine/Multiplier.lean ====
section
/-! DEFINITION. The unit `fp32_multiplier`: FMUL (42_multiplier.md). -/

namespace Sys2Proof.Machine

/-- `mul_native(a, b)` (R66): the exact product, rounded once. -/
def mulNative (a b : Word) : Word :=
  if isNan a || isNan b then generatedNan
  else
    let s := sign a ^^ sign b
    if isInf a || isInf b then (if isZero a || isZero b then generatedNan else infOf s)
    else roundRne s (mag a * mag b) (scale * scale)

/-- FMUL (R65). -/
def execFmul (rs1 rs2 : Word) (s : State) : Result := answer (flush (mulNative rs1 rs2)) s

end Sys2Proof.Machine
end

