-- ==== Sys2Proof/Machine/SignInjection.lean ====
section
/-! DEFINITION. The sign selector in front of the `subnormal_flush_unit`: FSGNJ, FSGNJN and FSGNJX
(45_sign_injection.md). -/

namespace Sys2Proof.Machine

/-- `flush( s ‖ x[30:0] )`: the sign the flush preserves is the one just injected (90_conflicts.md C4). -/
def inject (s : Bool) (x : Word) : Word := flush (BitVec.ofBool s ++ x.extractLsb' 0 31)

/-- FSGNJ (R90). -/
def execFsgnj (rs1 rs2 : Word) (s : State) : Result := answer (inject (sign rs2) rs1) s

/-- FSGNJN (R91). -/
def execFsgnjn (rs1 rs2 : Word) (s : State) : Result := answer (inject (!sign rs2) rs1) s

/-- FSGNJX (R92). -/
def execFsgnjx (rs1 rs2 : Word) (s : State) : Result := answer (inject (sign rs1 ^^ sign rs2) rs1) s

end Sys2Proof.Machine
end

