-- ==== Sys2Proof/Machine/Dispatch.lean ====
section
/-! DEFINITION. One arm per command (30_encoding.md R37): each gets the operand fields it reads, and the
named illegal codes those their code names. -/

namespace Sys2Proof.Machine

def exec (i : Instr) (s : State) : Host.Outcome State Fault Refusal :=
  match i with
  | .fadd rs1 rs2 _ => Sys2Proof.Machine.execFadd rs1 rs2 s
  | .fsub rs1 rs2 _ => Sys2Proof.Machine.execFsub rs1 rs2 s
  | .fmul rs1 rs2 _ => Sys2Proof.Machine.execFmul rs1 rs2 s
  | .fmin rs1 rs2 _ => Sys2Proof.Machine.execFmin rs1 rs2 s
  | .fmax rs1 rs2 _ => Sys2Proof.Machine.execFmax rs1 rs2 s
  | .feq rs1 rs2 _ => Sys2Proof.Machine.execFeq rs1 rs2 s
  | .flt rs1 rs2 _ => Sys2Proof.Machine.execFlt rs1 rs2 s
  | .fle rs1 rs2 _ => Sys2Proof.Machine.execFle rs1 rs2 s
  | .f2ui rs1 _ _ => Sys2Proof.Machine.execF2ui rs1 s
  | .f2si rs1 _ _ => Sys2Proof.Machine.execF2si rs1 s
  | .ui2f rs1 _ _ => Sys2Proof.Machine.execUi2f rs1 s
  | .si2f rs1 _ _ => Sys2Proof.Machine.execSi2f rs1 s
  | .fsgnj rs1 rs2 _ => Sys2Proof.Machine.execFsgnj rs1 rs2 s
  | .fsgnjn rs1 rs2 _ => Sys2Proof.Machine.execFsgnjn rs1 rs2 s
  | .fsgnjx rs1 rs2 _ => Sys2Proof.Machine.execFsgnjx rs1 rs2 s
  | .fclass rs1 _ _ => Sys2Proof.Machine.execFclass rs1 s
  | .flush rs1 _ _ => Sys2Proof.Machine.execFlush rs1 s
  | .fdiv rs1 rs2 _ => Sys2Proof.Machine.execFdiv rs1 rs2 s
  | .fsqrt rs1 _ _ => Sys2Proof.Machine.execFsqrt rs1 s
  | .fma rs1 rs2 rs3 => Sys2Proof.Machine.execFma rs1 rs2 rs3 s
  | .fms rs1 rs2 rs3 => Sys2Proof.Machine.execFms rs1 rs2 rs3 s
  | .fnms rs1 rs2 rs3 => Sys2Proof.Machine.execFnms rs1 rs2 rs3 s
  | .fnma rs1 rs2 rs3 => Sys2Proof.Machine.execFnma rs1 rs2 rs3 s
  | .reserved23 _ _ _ => Sys2Proof.Machine.execReserved23 s
  | .reserved24 _ _ _ => Sys2Proof.Machine.execReserved24 s
  | .reserved25 _ _ _ => Sys2Proof.Machine.execReserved25 s
  | .reserved26 _ _ _ => Sys2Proof.Machine.execReserved26 s
  | .reserved27 _ _ _ => Sys2Proof.Machine.execReserved27 s
  | .reserved28 _ _ _ => Sys2Proof.Machine.execReserved28 s
  | .reserved29 _ _ _ => Sys2Proof.Machine.execReserved29 s
  | .reserved30 _ _ _ => Sys2Proof.Machine.execReserved30 s
  | .reserved31 _ _ _ => Sys2Proof.Machine.execReserved31 s

end Sys2Proof.Machine
end

