-- ==== Sys2Proof/Machine/Step.lean ====
section
/-! DEFINITION. One step of the block (10_state.md R16, 70_reset_and_hazards.md R120). -/

namespace Sys2Proof.Machine

/-- One step. Under reset, and when no command is presented, there is no response (R16, R120); otherwise the
presented command is decoded and answered (R16). Then the host drives its next pins. -/
def step (s : State) : Host.Outcome State Fault Refusal :=
  if s.pins.rst then .next (advance (silent s))
  else if s.pins.cmd.valid then thenAdvance (exec (fetch s) s)
  else .next (advance (silent s))

/-- `s` with a command word presented on the command port, which is where the next step takes its command.
The word is numbered as the opcode table numbers it (R30); a number that is no command word leaves `s` as it
is. The host of the machine presents commands this way: nothing is loaded, there is no program counter and no
program memory (R12, R20; log entry 4). -/
def State.withFetchWord (s : State) (nbits w : Nat) : State :=
  if (rawOfWord (wordOfBits nbits w)).wellFormed then s.withPins (pinsOfRaw (rawOfWord (wordOfBits nbits w)))
  else s

end Sys2Proof.Machine
end

