-- ==== Sys2Proof/Machine/Reference.lean ====
section
/-! DEFINITION. The reference functions the document keeps beside the block for the operations it rejects
(47_reference_only.md R100 to R107). No response of the block ever carries one of these values (R4, R108). -/

namespace Sys2Proof.Machine

/-- `div_native(a, b)` (R106). -/
def divNative (a b : Word) : Word :=
  if isNan a || isNan b then generatedNan
  else
    let s := sign a ^^ sign b
    if isInf a && isInf b then generatedNan
    else if isZero a && isZero b then generatedNan
    else if isInf a then infOf s
    else if isInf b then zeroOf s
    else if isZero b then infOf s
    else roundRne s (mag a) (mag b)

/-- The bits of the integer square root of `n`, from bit `b - 1` down, added to what is already known. -/
def isqrtFrom (n : Nat) : Nat → Nat → Nat
  | 0, known => known
  | b + 1, known =>
    if (known + 2 ^ b) * (known + 2 ^ b) ≤ n then isqrtFrom n b (known + 2 ^ b) else isqrtFrom n b known

/-- The integer square root: the greatest number whose square is at most `n`. -/
def isqrt (n : Nat) : Nat := isqrtFrom n (Nat.log2 n / 2 + 1) 0

/-- `rne_int(sqrt(n) / 2^k)`, decided by comparing squares as R107 says. -/
def rneSqrt (n k : Nat) : Nat :=
  let f := isqrt (n / (2 ^ k * 2 ^ k))
  let half := (2 * f + 1) * 2 ^ k
  if 4 * n < half * half then f
  else if half * half < 4 * n then f + 1
  else if f % 2 = 0 then f else f + 1

/-- `round_rne(0, sqrt(m / scale))` (R53 on the real number of R107): in units of `1 / scale` the magnitude is
`sqrt(m * scale)`. -/
def roundSqrt (m : Nat) : Word :=
  let n := m * scale
  let k := Nat.log2 (isqrt n) - 23
  packMag false (rneSqrt n k * 2 ^ k)

/-- `sqrt_native(a)` (R107). -/
def sqrtNative (a : Word) : Word :=
  if isNan a then generatedNan
  else if isZero a then a
  else if sign a then generatedNan
  else if isInf a then a
  else roundSqrt (mag a)

/-- `REF_FDIV(a, b)` (R100). -/
def refFdiv (a b : Word) : Word := flush (divNative a b)

/-- `REF_FSQRT(a)` (R101). -/
def refFsqrt (a : Word) : Word := flush (sqrtNative a)

/-- `REF_FMA(a, b, c)` (R102): two roundings, the product unflushed. -/
def refFma (a b c : Word) : Word := flush (addNative (mulNative a b) c)

/-- `REF_FMS(a, b, c)` (R103). -/
def refFms (a b c : Word) : Word := flush (addNative (mulNative a b) (neg c))

/-- `REF_FNMS(a, b, c)` (R104). -/
def refFnms (a b c : Word) : Word := flush (addNative (neg (mulNative a b)) c)

/-- `REF_FNMA(a, b, c)` (R105). -/
def refFnma (a b c : Word) : Word := flush (addNative (neg (mulNative a b)) (neg c))

end Sys2Proof.Machine
end

