-- ==== Sys2Proof/Rules.lean ====
section
/-! DEFINITION. The numeric rules of the spec over exact rationals, written as the spec writes them: patterns
as numbers, `val` in ℚ, rounding by `floor` and `log2`. The machine (Sys2Proof/Machine) computes in whole
numbers instead; the statements say that the two agree. Nothing in the machine uses this file. -/

namespace Sys2Proof.Rules

/-- `sign(x) = x[31]` (R33). -/
def sign (x : Word) : Nat := x.toNat / 2 ^ 31

/-- `expo(x) = uint(x[30:23])` (R33). -/
def expo (x : Word) : Nat := x.toNat / 2 ^ 23 % 2 ^ 8

/-- `mant(x) = uint(x[22:0])` (R33). -/
def mant (x : Word) : Nat := x.toNat % 2 ^ 23

/-- R34 -/
def isZero (x : Word) : Bool := decide (expo x = 0 ∧ mant x = 0)

/-- R34 -/
def isSub (x : Word) : Bool := decide (expo x = 0 ∧ mant x ≠ 0)

/-- R34 -/
def isNorm (x : Word) : Bool := decide (1 ≤ expo x ∧ expo x ≤ 254)

/-- R34 -/
def isInf (x : Word) : Bool := decide (expo x = 255 ∧ mant x = 0)

/-- R34 -/
def isNan (x : Word) : Bool := decide (expo x = 255 ∧ mant x ≠ 0)

/-- R34 -/
def isFinite (x : Word) : Bool := decide (expo x ≠ 255)

/-- `s ‖ bits8(e) ‖ bits23(m)`. -/
def cat (s e m : Nat) : Word := BitVec.ofNat 32 (s * 2 ^ 31 + e * 2 ^ 23 + m)

/-- `val(x)` for a finite `x` (R50). -/
def val (x : Word) : ℚ :=
  (-1) ^ sign x *
    (if expo x = 0 then 2 ^ (-126 : ℤ) * ((mant x : ℚ) / 2 ^ 23)
     else 2 ^ ((expo x : ℤ) - 127) * (1 + (mant x : ℚ) / 2 ^ 23))

/-- `neg(x)`: the sign bit inverted and nothing else (R50). -/
def neg (x : Word) : Word := cat (1 - sign x) (expo x) (mant x)

/-- `rne_int(q)` (R51). -/
def rneInt (q : ℚ) : ℤ :=
  let f := ⌊q⌋
  let r := q - f
  if r < 1 / 2 then f
  else if 1 / 2 < r then f + 1
  else if f % 2 = 0 then f else f + 1

/-- `round_rne(s, q)` (R53). -/
def roundRne (s : Nat) (q : ℚ) : Word :=
  if q = 0 then cat s 0 0
  else
    let E := Int.log 2 q
    let e := max E (-126)
    let quantum : ℚ := 2 ^ (e - 23)
    let r := rneInt (q / quantum)
    let v : ℚ := r * quantum
    if 2 ^ (128 : ℤ) ≤ v then cat s 255 0
    else if v < 2 ^ (-126 : ℤ) then cat s 0 ⌊v / 2 ^ (-149 : ℤ)⌋.toNat
    else
      let E2 := Int.log 2 v
      cat s (E2 + 127).toNat ⌊(v / 2 ^ E2 - 1) * 2 ^ 23⌋.toNat

/-- `flush(x)` (R54). -/
def flush (x : Word) : Word := if isSub x then cat (sign x) 0 0 else x

/-- `add_native(a, b)` (R62). -/
def addNative (a b : Word) : Word :=
  if isNan a || isNan b then Config.qnanOut
  else if isInf a && isInf b then (if sign a = sign b then a else Config.qnanOut)
  else if isInf a then a
  else if isInf b then b
  else
    let t := val a + val b
    if t = 0 then (if sign a = sign b then cat (sign a) 0 0 else 0x00000000#32)
    else if 0 < t then roundRne 0 t
    else roundRne 1 (-t)

/-- `sign(a) xor sign(b)` (R66). -/
def signXor (a b : Word) : Nat := if sign a = sign b then 0 else 1

/-- `mul_native(a, b)` (R66). -/
def mulNative (a b : Word) : Word :=
  if isNan a || isNan b then Config.qnanOut
  else if isInf a || isInf b then
    (if isZero a || isZero b then Config.qnanOut else cat (signXor a b) 255 0)
  else roundRne (signXor a b) (|val a| * |val b|)

/-- `ext(x)` (R75). -/
inductive Ext where
  | negInf
  | fin (q : ℚ)
  | posInf

/-- `ext(x)` for a pattern that is not a NaN (R75). -/
def ext (x : Word) : Ext :=
  if x = 0x7F800000#32 then .posInf else if x = 0xFF800000#32 then .negInf else .fin (val x)

/-- The order of R75: minus infinity below every rational, plus infinity above. -/
def Ext.lt : Ext → Ext → Bool
  | .negInf, .negInf => false
  | .negInf, _ => true
  | .fin _, .negInf => false
  | .fin p, .fin q => decide (p < q)
  | .fin _, .posInf => true
  | .posInf, _ => false

/-- `less(a, b)` (R75). -/
def less (a b : Word) : Bool := (ext a).lt (ext b)

/-- `greater(a, b)` (R75). -/
def greater (a b : Word) : Bool := (ext b).lt (ext a)

/-- FMIN (R70). -/
def fmin (a b : Word) : Word :=
  if isNan a && isNan b then Config.qnanOut
  else if isNan a then b
  else if isNan b then a
  else if a = 0x80000000#32 ∧ b = 0x00000000#32 ∨ a = 0x00000000#32 ∧ b = 0x80000000#32 then 0x80000000#32
  else if less a b then flush a else flush b

/-- FMAX (R71). -/
def fmax (a b : Word) : Word :=
  if isNan a && isNan b then Config.qnanOut
  else if isNan a then b
  else if isNan b then a
  else if a = 0x80000000#32 ∧ b = 0x00000000#32 ∨ a = 0x00000000#32 ∧ b = 0x80000000#32 then 0x00000000#32
  else if greater a b then flush a else flush b

/-- FEQ (R72). -/
def feq (a b : Word) : Word :=
  if isNan a || isNan b then 0x00000000#32
  else if !less a b && !greater a b then 0x00000001#32 else 0x00000000#32

/-- FLT (R73). -/
def flt (a b : Word) : Word :=
  if isNan a || isNan b then 0x00000000#32 else if less a b then 0x00000001#32 else 0x00000000#32

/-- FLE (R74). -/
def fle (a b : Word) : Word :=
  if isNan a || isNan b then 0x00000000#32 else if !greater a b then 0x00000001#32 else 0x00000000#32

/-- `to_bits32(z)`: the pattern `z mod 2^32`. -/
def toBits32 (z : ℤ) : Word := BitVec.ofNat 32 (z % 2 ^ 32).toNat

/-- `uint(v)`. -/
def uint (x : Word) : ℤ := x.toNat

/-- `sint(v)`: `uint(v)` when the top bit is 0, else `uint(v) - 2^32`. -/
def sint (x : Word) : ℤ := if x.toNat < 2 ^ 31 then (x.toNat : ℤ) else (x.toNat : ℤ) - 2 ^ 32

/-- F2UI (R80). -/
def f2ui (x : Word) : Word :=
  if isNan x || isInf x then Config.f2iOor .f2ui x
  else if 0 ≤ rneInt (val x) ∧ rneInt (val x) ≤ 2 ^ 32 - 1 then toBits32 (rneInt (val x))
  else Config.f2iOor .f2ui x

/-- F2SI (R81). -/
def f2si (x : Word) : Word :=
  if isNan x || isInf x then Config.f2iOor .f2si x
  else if -2 ^ 31 ≤ rneInt (val x) ∧ rneInt (val x) ≤ 2 ^ 31 - 1 then toBits32 (rneInt (val x))
  else Config.f2iOor .f2si x

/-- UI2F (R82). -/
def ui2f (x : Word) : Word := flush (roundRne 0 (uint x))

/-- SI2F (R83). -/
def si2f (x : Word) : Word :=
  if 0 ≤ sint x then flush (roundRne 0 (sint x)) else flush (roundRne 1 (-(sint x : ℚ)))

/-- FSGNJ (R90). -/
def fsgnj (a b : Word) : Word := flush (cat (sign b) (expo a) (mant a))

/-- FSGNJN (R91). -/
def fsgnjn (a b : Word) : Word := flush (cat (1 - sign b) (expo a) (mant a))

/-- FSGNJX (R92). -/
def fsgnjx (a b : Word) : Word := flush (cat (signXor a b) (expo a) (mant a))

/-- FCLASS (R95): bit `n` of the mask for the `n`-th row of its table. -/
def fclass (x : Word) : Word :=
  if x = 0xFF800000#32 then BitVec.ofNat 32 (2 ^ 0)
  else if sign x = 1 ∧ isNorm x then BitVec.ofNat 32 (2 ^ 1)
  else if sign x = 1 ∧ isSub x then BitVec.ofNat 32 (2 ^ 2)
  else if x = 0x80000000#32 then BitVec.ofNat 32 (2 ^ 3)
  else if x = 0x00000000#32 then BitVec.ofNat 32 (2 ^ 4)
  else if sign x = 0 ∧ isSub x then BitVec.ofNat 32 (2 ^ 5)
  else if sign x = 0 ∧ isNorm x then BitVec.ofNat 32 (2 ^ 6)
  else if x = 0x7F800000#32 then BitVec.ofNat 32 (2 ^ 7)
  else if isNan x ∧ mant x < 2 ^ 22 then BitVec.ofNat 32 (2 ^ 8)
  else BitVec.ofNat 32 (2 ^ 9)

/-- `div_native(a, b)` (R106). -/
def divNative (a b : Word) : Word :=
  if isNan a || isNan b then Config.qnanOut
  else if isInf a && isInf b then Config.qnanOut
  else if isZero a && isZero b then Config.qnanOut
  else if isInf a then cat (signXor a b) 255 0
  else if isInf b then cat (signXor a b) 0 0
  else if isZero b then cat (signXor a b) 255 0
  else roundRne (signXor a b) (|val a| / |val b|)

/-- `F_op(rs1, rs2)` of R16 for an implemented code, and nothing for an illegal one (R37, R39). -/
def result (op : Nat) (rs1 rs2 : Word) : Option Word :=
  match op with
  | 0 => some (flush (addNative rs1 rs2))
  | 1 => some (flush (addNative rs1 (neg rs2)))
  | 2 => some (flush (mulNative rs1 rs2))
  | 3 => some (fmin rs1 rs2)
  | 4 => some (fmax rs1 rs2)
  | 5 => some (feq rs1 rs2)
  | 6 => some (flt rs1 rs2)
  | 7 => some (fle rs1 rs2)
  | 8 => some (f2ui rs1)
  | 9 => some (f2si rs1)
  | 10 => some (ui2f rs1)
  | 11 => some (si2f rs1)
  | 12 => some (fsgnj rs1 rs2)
  | 13 => some (fsgnjn rs1 rs2)
  | 14 => some (fsgnjx rs1 rs2)
  | 15 => some (fclass rs1)
  | 16 => some (flush rs1)
  | _ => none

end Sys2Proof.Rules
end

