-- ==== Sys2Proof/Safety.lean ====
section
/-! DEFINITION. What counts as a good run, in the terms the statements use: the response the rules give a
command (10_state.md R16), what is observed of a run (00_scope.md section 7 item 9), the invariant of the
response port, and which operand fields a command reads (30_encoding.md R37, R38). -/

namespace Sys2Proof.Machine

/-- The response the rules give a presented command (R16): the result with `rsp_illegal = 0`, or
`ILLEGAL_DATA` with `rsp_illegal = 1` (R110). -/
def ruleResponse (c : CmdPort) : RspPort :=
  match Rules.result c.op.toNat c.rs1 c.rs2 with
  | some r => { valid := true, data := r, illegal := false }
  | none => { valid := true, data := Config.illegalData, illegal := true }

/-- A step under these pins answers a command: one is presented and the block is not being reset. -/
def Pins.answers (p : Pins) : Bool := !p.rst && p.cmd.valid

/-- The responses observed in the next `n` steps, in order: one for each step that leaves `rsp_valid = 1`. -/
def responses : Nat → State → List RspPort
  | 0, _ => []
  | n + 1, s =>
    match step s with
    | .next t => if t.rsp.valid then t.rsp :: responses n t else responses n t
    | .fault _ => []
    | .refused _ => []

/-- The responses the rules give for a sequence of pins: one per presented command, in the order of the
commands, each from its own command alone. -/
def ruleResponses : List Pins → List RspPort
  | [] => []
  | p :: ps => if p.answers then ruleResponse p.cmd :: ruleResponses ps else ruleResponses ps

/-- The command that step `n` (counted from 0) of the host's `moves` takes, if it takes one. -/
def takenAt (moves : List Pins) (n : Nat) : Option CmdPort :=
  match moves[n]? with
  | some p => if p.answers then some p.cmd else none
  | none => none

/-- The invariant of the response port after `n` steps of a host that makes exactly these `moves`: the response is
the rules' response to the command the step before took, and there is none when that step took none or when no step
was made yet (R16, R19, R120). For the next step to answer its own command, the pins and the moves still to come are
those the host has at step `n`. -/
structure RspSound (moves : List Pins) (n : Nat) (s : State) : Prop where
  /-- the pins of the step to come are the host's move `n`, or nothing is presented after the last move -/
  pins : moves[n]? = some s.pins ∨ moves.length ≤ n ∧ s.pins.answers = false
  /-- the moves after it -/
  inputs : s.inputs = moves.drop (n + 1)
  /-- before the first step there is no response -/
  first : n = 0 → s.rsp.valid = false
  /-- the response is that of the command just taken -/
  answered : ∀ m c, n = m + 1 → takenAt moves m = some c → s.rsp = ruleResponse c
  /-- there is no response where no command was taken -/
  silent : ∀ m, n = m + 1 → takenAt moves m = none → s.rsp.valid = false

/-- The pins of the step after this one: the host's next move, or the command withdrawn. -/
def nextPins (s : State) : Pins :=
  match s.inputs with
  | [] => withdraw s.pins
  | p :: _ => p

/-- Two operand values agree in the part an operation reads (R37, R38). -/
def agreeOn (u : Instr.FieldUse) (a b : Word) : Prop :=
  match u with
  | .whole => a = b
  | .signBit => a.getLsbD 31 = b.getLsbD 31
  | .ignored => True

/-- A row of R37's table: code `n` decodes, whatever the operands, to the command with these columns. -/
def TableRow (n : Nat) (mnemonic : String) (unit : Instr.FpUnit) (use1 use2 : Instr.FieldUse)
    (kind : Instr.ResultKind) (implemented : Bool) : Prop :=
  ∀ a b c : Word,
    (decodeCmd (BitVec.ofNat 5 n) a b c).mnemonic = mnemonic ∧
    (decodeCmd (BitVec.ofNat 5 n) a b c).unit = unit ∧
    (decodeCmd (BitVec.ofNat 5 n) a b c).rs1Use = use1 ∧
    (decodeCmd (BitVec.ofNat 5 n) a b c).rs2Use = use2 ∧
    (decodeCmd (BitVec.ofNat 5 n) a b c).resultKind = kind ∧
    (decodeCmd (BitVec.ofNat 5 n) a b c).implemented = implemented

end Sys2Proof.Machine
end

