-- ==== Sys2Proof/Certificates/Slice0/Obligations.lean ====
section
/-! DEFINITION. The statements for the provers. The numeric rules are stated through Sys2Proof/Rules.lean, which
computes in exact rationals as the spec does; the machine computes in whole numbers. Every statement about a
result is also the instruction's completion and its frame: `exec` answers the very state `s` with another
response on the response port, so the pins, the host's moves and the draws are as before. -/

open Sys2Proof Sys2Proof.Machine Host

/-! ### Encoding -/

/-- Decoding an encoded command gives it back, and encoding a decoded word gives the word back: no bit of the
101 is dropped (R30, R37; the spec's own decisions D2, D4). -/
def Obligations.DecodeEncodeRoundTrip : Prop :=
  (∀ i : Instr, i.wellFormed = true ∧ decodeWord (encode i).toNat = .ok i) ∧
  (∀ (w : Nat) (i : Instr), decodeWord w = .ok i → (encode i).toNat = w)

/-- The command word is `op ‖ rs1 ‖ rs2 ‖ rs3` with `op` in bits 100:96, and the decoder needs `op` only: the
operand fields tell it nothing (R30; the spec's decision D2). -/
def Obligations.EncodeLaysOutCommandWord : Prop :=
  (∀ i : Instr, (encode i).toNat =
    i.opcode.toNat * 2 ^ 96 + i.rs1.toNat * 2 ^ 64 + i.rs2.toNat * 2 ^ 32 + i.rs3.toNat) ∧
  (∀ (op : OpCode) (a b c a' b' c' : Word),
    (decodeCmd op a b c).mnemonic = (decodeCmd op a' b' c').mnemonic ∧
    (decodeCmd op a b c).rs1 = a ∧ (decodeCmd op a b c).rs2 = b ∧ (decodeCmd op a b c).rs3 = c)

/-- The code map, column by column: mnemonic, unit, the part of `rs1` and of `rs2` the block reads, result kind,
status (R37; the spec's decision D4), and the reserved codes (R39). -/
def Obligations.CodeMapIsTheTable : Prop :=
  TableRow 0 "FADD" .adder .whole .whole .f32 true ∧
  TableRow 1 "FSUB" .adder .whole .whole .f32 true ∧
  TableRow 2 "FMUL" .multiplier .whole .whole .f32 true ∧
  TableRow 3 "FMIN" .comparator .whole .whole .f32 true ∧
  TableRow 4 "FMAX" .comparator .whole .whole .f32 true ∧
  TableRow 5 "FEQ" .comparator .whole .whole .bool true ∧
  TableRow 6 "FLT" .comparator .whole .whole .bool true ∧
  TableRow 7 "FLE" .comparator .whole .whole .bool true ∧
  TableRow 8 "F2UI" .floatToInt .whole .ignored .u32 true ∧
  TableRow 9 "F2SI" .floatToInt .whole .ignored .s32 true ∧
  TableRow 10 "UI2F" .intToFloat .whole .ignored .f32 true ∧
  TableRow 11 "SI2F" .intToFloat .whole .ignored .f32 true ∧
  TableRow 12 "FSGNJ" .signSelector .whole .signBit .f32 true ∧
  TableRow 13 "FSGNJN" .signSelector .whole .signBit .f32 true ∧
  TableRow 14 "FSGNJX" .signSelector .whole .signBit .f32 true ∧
  TableRow 15 "FCLASS" .classifier .whole .ignored .mask true ∧
  TableRow 16 "FLUSH" .flushUnit .whole .ignored .f32 true ∧
  TableRow 17 "FDIV" .noUnit .ignored .ignored .noResult false ∧
  TableRow 18 "FSQRT" .noUnit .ignored .ignored .noResult false ∧
  TableRow 19 "FMA" .noUnit .ignored .ignored .noResult false ∧
  TableRow 20 "FMS" .noUnit .ignored .ignored .noResult false ∧
  TableRow 21 "FNMS" .noUnit .ignored .ignored .noResult false ∧
  TableRow 22 "FNMA" .noUnit .ignored .ignored .noResult false ∧
  (∀ (op : OpCode) (a b c : Word), 23 ≤ op.toNat →
    (decodeCmd op a b c).unit = .noUnit ∧ (decodeCmd op a b c).resultKind = .noResult ∧
    (decodeCmd op a b c).implemented = false)

/-- The decoder refuses exactly the numbers that are wider than a command word, and by name; every 101-bit word
is a command (R16, R30, R39; the refusal itself is the model's, log entry 4). -/
def Obligations.DecodeRefusesExactlyTooWide : Prop :=
  ∀ w : Nat, (decodeWord w = .error .opTooWide ↔ 2 ^ 101 ≤ w) ∧ (w < 2 ^ 101 → ∃ i, decodeWord w = .ok i)

/-- Command words written out from the encodings of R30 and R37 decode to the commands they stand for, one per
unit and two illegal codes. -/
def Obligations.SpecWordsDecode : Prop :=
  decodeWord 0x003F8000004000000000000000 = .ok (.fadd 0x3F800000#32 0x40000000#32 0#32) ∧
  decodeWord 0x02404000003F00000000000000 = .ok (.fmul 0x40400000#32 0x3F000000#32 0#32) ∧
  decodeWord 0x0340A000004080000000000000 = .ok (.fmin 0x40A00000#32 0x40800000#32 0#32) ∧
  decodeWord 0x093FC000000000000000000000 = .ok (.f2si 0x3FC00000#32 0#32 0#32) ∧
  decodeWord 0x0B000000020000000000000000 = .ok (.si2f 0x00000002#32 0#32 0#32) ∧
  decodeWord 0x0EC0A00000C0A0000000000000 = .ok (.fsgnjx 0xC0A00000#32 0xC0A00000#32 0#32) ∧
  decodeWord 0x0F3F0000000000000000000000 = .ok (.fclass 0x3F000000#32 0#32 0#32) ∧
  decodeWord 0x10004000000000000000000000 = .ok (.flush 0x00400000#32 0#32 0#32) ∧
  decodeWord 0x13400000004000000040000000 = .ok (.fma 0x40000000#32 0x40000000#32 0x40000000#32) ∧
  decodeWord 0x1F400000000000000000000000 = .ok (.reserved31 0x40000000#32 0#32 0#32)

/-! ### The step -/

/-- A step runs the decoded command (10_state.md section 2): when the block is not being reset and a command is
presented, `step` is `exec` of the command on the port, after which the host's next pins arrive (log entry 8). And a
command word placed with `withFetchWord` is the command so presented. -/
def Obligations.StepRunsDecodedCommand : Prop :=
  (∀ s : State, s.pins.rst = false → s.pins.cmd.valid = true →
    step s = thenAdvance (exec (decodeCmd s.pins.cmd.op s.pins.cmd.rs1 s.pins.cmd.rs2 s.pins.cmd.rs3) s)) ∧
  (∀ (s : State) (nbits w : Nat) (i : Instr), decodeTableWord nbits w = some i →
    (s.withFetchWord nbits w).pins = Pins.present i ∧
    step (s.withFetchWord nbits w) = thenAdvance (exec i (s.withFetchWord nbits w)))

/-- A step under reset answers nothing, even when a command is presented, and leaves `rsp_valid = 0` (R120; the
spec's decision D16; the reset line is the model's, log entry 8). -/
def Obligations.ResetDiscardsTheCommand : Prop :=
  ∀ s : State, s.pins.rst = true →
    ∃ t, step s = .next t ∧ t.rsp.valid = false ∧ t.pins = nextPins s ∧ t.inputs = s.inputs.tail

/-- After reset `rsp_valid = 0` and no response is pending: with no command presented no step ever presents one.
The first command after reset is answered exactly as any other (10_state.md section 3; the spec's decision D16; that
the pins are idle at reset is the model's choice, log entry 1). -/
def Obligations.ResetHasNoResponsePending : Prop :=
  State.reset.rsp.valid = false ∧ (∀ n, responses n State.reset = []) ∧
  (∀ i : Instr, ∃ t, step (State.reset.withPins (Pins.present i)) = .next t ∧
    t.rsp = ruleResponse (CmdPort.ofInstr i))

/-- The step (10_state.md section 2; the spec's decision D3; the reset line, the host's next pins and its list of
moves are the model's, log entry 8). A step that takes a command presents exactly the response the rules
give it, and the host's next pins, and changes nothing else; with `cmd_valid = 0` no response is presented; every
state has a next state. Responses appear in the order of their commands, one per command, each from its own command
alone: a run over any moves of the host, idle slots and resets among them, shows exactly the rules' responses and
nothing more, however long it goes on. -/
def Obligations.StepAnswersByTheRules : Prop :=
  (∀ s : State, s.pins.rst = false → s.pins.cmd.valid = true →
    ∃ t, step s = .next t ∧ t.rsp = ruleResponse s.pins.cmd ∧ t.pins = nextPins s ∧
      t.inputs = s.inputs.tail ∧ t.draws = s.draws) ∧
  (∀ s : State, s.pins.rst = false → s.pins.cmd.valid = false →
    ∃ t, step s = .next t ∧ t.rsp.valid = false ∧ t.pins = nextPins s ∧ t.inputs = s.inputs.tail) ∧
  (∀ s : State, ∃ t, step s = .next t) ∧
  (∀ (s : State) (n : Nat), responses (s.inputs.length + 1 + n) s = ruleResponses (s.pins :: s.inputs))

/-- The response to a command is a function of that command and of the parameters alone, not of what the block
answered before nor of anything else in the state (R10). -/
def Obligations.ResponseDependsOnTheCommandAlone : Prop :=
  ∀ s s' t t' : State, s.pins.cmd = s'.pins.cmd → s.pins.answers = true → s'.pins.answers = true →
    step s = .next t → step s' = .next t' → t.rsp = t'.rsp

/-- Every step keeps the response port sound, whatever the host's moves: when after `n` steps the port shows the
rules' response to the command that step `n - 1` took (and none where it took none), then after one more step it shows
the rules' response to the command step `n` took (and none where it took none). The host's list of moves is the
model's, log entry 8. -/
def Obligations.StepKeepsResponseSound : Prop :=
  ∀ (moves : List Pins) (n : Nat) (s t : State),
    RspSound moves n s → step s = .next t → RspSound moves (n + 1) t

/-- The response port is sound right after reset, before any step: no response is presented, whatever moves the host
is going to make (R120; that State.reset itself has no further moves is the model's choice, log entry 8). -/
def Obligations.ResetResponseSound : Prop :=
  RspSound [Pins.idle] 0 State.reset ∧
  ∀ (p : Pins) (ps : List Pins), RspSound (p :: ps) 0 { State.reset with pins := p, inputs := ps }

/-- A response with `rsp_illegal = 1` carries `ILLEGAL_DATA`, after any step from any state. -/
def Obligations.IllegalResponseCarriesIllegalData : Prop :=
  ∀ s t : State, step s = .next t → t.rsp.valid = true → t.rsp.illegal = true → t.rsp.data = 0x00000000#32

/-! ### Frames and operand fields -/

/-- An operand field the table does not list for an operation is ignored, and of `rs2` the sign injections read
bit 31 alone: two commands of one code that agree on what the operation reads do the same (R38). -/
def Obligations.UnreadFieldsAreIgnored : Prop :=
  ∀ (i j : Instr) (s : State), i.opcode = j.opcode → agreeOn i.rs1Use i.rs1 j.rs1 →
    agreeOn i.rs2Use i.rs2 j.rs2 → exec i s = exec j s

/-- No command touches anything but the response port. -/
def Obligations.ExecChangesOnlyTheResponse : Prop :=
  ∀ (i : Instr) (s t : State), exec i s = .next t →
    t.pins = s.pins ∧ t.inputs = s.inputs ∧ t.draws = s.draws ∧ t.rsp.valid = true

/-! ### The illegal codes -/

/-- FDIV, FSQRT, FMA, FMS, FNMS, FNMA and the nine reserved codes are answered with `rsp_illegal = 1` and
`rsp_data = 0x00000000`, whatever the operands, and the machine goes on with nothing recorded (R39, R108, R110;
the spec's own decisions D5, D6). -/
def Obligations.IllegalCodesAnswerIllegal : Prop :=
  ∀ (a b c : Word) (s : State),
    ∀ i ∈ ([.fdiv a b c, .fsqrt a b c, .fma a b c, .fms a b c, .fnms a b c, .fnma a b c,
      .reserved23 a b c, .reserved24 a b c, .reserved25 a b c, .reserved26 a b c, .reserved27 a b c,
      .reserved28 a b c, .reserved29 a b c, .reserved30 a b c, .reserved31 a b c] : List Instr),
      17 ≤ i.opcode.toNat ∧
        exec i s = .next (s.withRsp { valid := true, data := 0x00000000#32, illegal := true })

/-- A command is answered illegal exactly when its code is above 16: no operand makes an implemented operation
fault, a signaling NaN included, and none makes an illegal code legal (R111, R112, R114). -/
def Obligations.OnlyTheCodeDecidesIllegality : Prop :=
  ∀ (i : Instr) (s : State), ∃ t, exec i s = .next t ∧ t.rsp.valid = true ∧
    (t.rsp.illegal = true ↔ 16 < i.opcode.toNat) ∧ (i.implemented = true ↔ i.opcode.toNat ≤ 16)

/-- Signaling NaNs do not signal (R112): for a signaling NaN `x` and any `y`, the comparisons answer 0, FADD, FSUB
and FMUL answer `QNAN_OUT`, FMIN and FMAX answer the other operand (or `QNAN_OUT` when that is a NaN too), the sign
injections and FLUSH keep its exponent and mantissa, and FCLASS sets bit 8. -/
def Obligations.SignalingNansDoNotSignal : Prop :=
  ∀ (x y c : Word) (s : State), Machine.isSnan x = true →
    (∀ i ∈ ([.feq x y c, .feq y x c, .flt x y c, .flt y x c, .fle x y c, .fle y x c] : List Instr),
      exec i s = .next (s.withRsp (RspPort.result 0x00000000#32))) ∧
    (∀ i ∈ ([.fadd x y c, .fadd y x c, .fsub x y c, .fsub y x c, .fmul x y c, .fmul y x c] : List Instr),
      exec i s = .next (s.withRsp (RspPort.result Config.qnanOut))) ∧
    (∀ i ∈ ([.fmin x y c, .fmin y x c, .fmax x y c, .fmax y x c] : List Instr),
      exec i s = .next (s.withRsp (RspPort.result (if Rules.isNan y then Config.qnanOut else y)))) ∧
    exec (.fsgnj x y c) s = .next (s.withRsp (RspPort.result (Rules.cat (Rules.sign y) 255 (Rules.mant x)))) ∧
    exec (.fsgnjn x y c) s = .next (s.withRsp (RspPort.result (Rules.cat (1 - Rules.sign y) 255 (Rules.mant x)))) ∧
    exec (.fsgnjx x y c) s = .next (s.withRsp (RspPort.result (Rules.cat (Rules.signXor x y) 255 (Rules.mant x)))) ∧
    exec (.flush x y c) s = .next (s.withRsp (RspPort.result x)) ∧
    exec (.fclass x y c) s = .next (s.withRsp (RspPort.result 0x00000100#32))

/-- Every result has the pattern of its kind (R36; the spec's decision D13): a truth value is `0x00000000` or
`0x00000001`, a class mask has one of bits 9:0 and zeros above; an operation without a result answers illegal. -/
def Obligations.ResultsHaveTheirKind : Prop :=
  ∀ (i : Instr) (s : State), ∃ t, exec i s = .next t ∧
    (i.resultKind = .bool → t.rsp.data = 0x00000000#32 ∨ t.rsp.data = 0x00000001#32) ∧
    (i.resultKind = .mask → ∃ k, k < 10 ∧ t.rsp.data = BitVec.ofNat 32 (2 ^ k)) ∧
    (i.resultKind = .noResult ↔ t.rsp.illegal = true)

/-! ### Patterns -/

/-- Every pattern falls in exactly one category, decided by its exponent and mantissa fields, and a NaN is quiet or
signaling by its mantissa's top bit (R33, R34, R35; the spec's decision D7). -/
def Obligations.PatternsFallInOneCategory : Prop :=
  ∀ x : Word,
    [Machine.isZero x, Machine.isSub x, Machine.isNorm x, Machine.isInf x, Machine.isNan x].count true = 1 ∧
    (Machine.isZero x = true ↔ Rules.expo x = 0 ∧ Rules.mant x = 0) ∧
    (Machine.isSub x = true ↔ Rules.expo x = 0 ∧ Rules.mant x ≠ 0) ∧
    (Machine.isNorm x = true ↔ 1 ≤ Rules.expo x ∧ Rules.expo x ≤ 254) ∧
    (Machine.isInf x = true ↔ Rules.expo x = 255 ∧ Rules.mant x = 0) ∧
    (Machine.isNan x = true ↔ Rules.expo x = 255 ∧ Rules.mant x ≠ 0) ∧
    (Machine.isFinite x = true ↔ Rules.expo x ≠ 255) ∧
    (Machine.isQnan x = true ↔ Machine.isNan x = true ∧ 2 ^ 22 ≤ Rules.mant x) ∧
    (Machine.isSnan x = true ↔ Machine.isNan x = true ∧ Rules.mant x < 2 ^ 22)

/-! ### Rounding -/

/-- The machine's `rne_int` is the rule's, over every rational (R51). -/
def Obligations.RneIntIsNearestEven : Prop :=
  ∀ (num : Int) (den : Nat), 0 < den →
    Machine.rneInt num den = Rules.rneInt ((num : ℚ) / (den : ℚ))

/-- The machine's `round_rne` is the rule's, over every magnitude (R53; the spec's decision D7). -/
def Obligations.RoundRneIsTheRule : Prop :=
  ∀ (s : Bool) (num den : Nat), 0 < den →
    Machine.roundRne s num den = Rules.roundRne s.toNat ((num : ℚ) / (den : ℚ))

/-- What `round_rne` is for: below the overflow threshold the result is a finite pattern of the given sign, no
finite pattern is nearer in magnitude, and when another magnitude is equally near the mantissa is even; from
`2^128 - 2^103` on the result is the infinity (R53; the spec's decision D7). -/
def Obligations.RoundRneIsNearestTiesToEven : Prop :=
  ∀ (s : Bool) (num den : Nat), 0 < den →
    let q : ℚ := (num : ℚ) / (den : ℚ)
    let r := Machine.roundRne s num den
    (2 ^ 128 - 2 ^ 103 ≤ q → r = Rules.cat s.toNat 255 0) ∧
    (q < 2 ^ 128 - 2 ^ 103 →
      Rules.isFinite r = true ∧ Rules.sign r = s.toNat ∧
      ∀ y : Word, Rules.isFinite y = true →
        |(|Rules.val r| - q)| ≤ |(|Rules.val y| - q)| ∧
        (|(|Rules.val r| - q)| = |(|Rules.val y| - q)| → |Rules.val y| ≠ |Rules.val r| →
          Rules.mant r % 2 = 0))

/-- A magnitude `q <= 2^(-150)` gives the zero of the sign, and one in `[2^(-126) - 2^(-150), 2^(-126))` the
smallest normal, which the flush does not touch (R53). -/
def Obligations.RoundRneUnderflowEdges : Prop :=
  ∀ (s : Bool) (num den : Nat), 0 < den →
    let q : ℚ := (num : ℚ) / (den : ℚ)
    (q ≤ 2 ^ (-150 : ℤ) → Machine.roundRne s num den = Rules.cat s.toNat 0 0) ∧
    (2 ^ (-126 : ℤ) - 2 ^ (-150 : ℤ) ≤ q → q < 2 ^ (-126 : ℤ) →
      Machine.roundRne s num den = Rules.cat s.toNat 1 0 ∧
        Machine.flush (Machine.roundRne s num den) = Machine.roundRne s num den)

/-! ### The flush -/

/-- FLUSH: the subnormal patterns `0x00000001 .. 0x007FFFFF` and `0x80000001 .. 0x807FFFFF` give `0x00000000`
and `0x80000000`, and every other pattern, zeros, infinities and NaN payloads included, is returned bit for
bit (R54, R56). -/
def Obligations.FlushZeroesExactlyTheSubnormals : Prop :=
  ∀ (a b c : Word) (s : State), ∃ r,
    exec (.flush a b c) s = .next (s.withRsp (RspPort.result r)) ∧
    r = (if 0x00000001 ≤ a.toNat ∧ a.toNat ≤ 0x007FFFFF then 0x00000000#32
      else if 0x80000001 ≤ a.toNat ∧ a.toNat ≤ 0x807FFFFF then 0x80000000#32
      else a)

/-- The block returns a subnormal pattern in exactly one situation: FMIN or FMAX with one NaN operand and one
subnormal operand, which is then returned unflushed (R57; 90_conflicts.md C3). -/
def Obligations.SubnormalOnlyFromMinMaxWithNan : Prop :=
  (∀ (i : Instr) (s t : State), i.resultKind = .f32 → exec i s = .next t → Rules.isSub t.rsp.data = true →
    ∃ a b c, (i = .fmin a b c ∨ i = .fmax a b c) ∧
      (Rules.isNan a = true ∧ Rules.isSub b = true ∧ t.rsp.data = b ∨
        Rules.isSub a = true ∧ Rules.isNan b = true ∧ t.rsp.data = a)) ∧
  (∀ (n x c : Word) (s : State), Rules.isNan n = true → Rules.isSub x = true →
    ∀ i ∈ ([.fmin n x c, .fmin x n c, .fmax n x c, .fmax x n c] : List Instr),
      exec i s = .next (s.withRsp (RspPort.result x)))

/-- Operands are not flushed (R58; the spec's decision D10), seen on a subnormal `x` of either sign: it is on its own
side of zero and not equal to it, FCLASS reports it as subnormal, FMUL by infinity is an infinity, and FADD of `x` with
itself is the doubled value when that is a normal and the zero of its sign otherwise. -/
def Obligations.SubnormalOperandsEnterUnflushed : Prop :=
  ∀ (x c : Word) (s : State), Rules.isSub x = true →
    exec (.flt 0x00000000#32 x c) s =
      .next (s.withRsp (RspPort.result (if Rules.sign x = 0 then 0x00000001#32 else 0x00000000#32))) ∧
    exec (.flt x 0x00000000#32 c) s =
      .next (s.withRsp (RspPort.result (if Rules.sign x = 1 then 0x00000001#32 else 0x00000000#32))) ∧
    exec (.feq x 0x00000000#32 c) s = .next (s.withRsp (RspPort.result 0x00000000#32)) ∧
    exec (.fclass x c c) s =
      .next (s.withRsp (RspPort.result (if Rules.sign x = 0 then 0x00000020#32 else 0x00000004#32))) ∧
    exec (.fmul x 0x7F800000#32 c) s = .next (s.withRsp (RspPort.result (Rules.cat (Rules.sign x) 255 0))) ∧
    exec (.fadd x x c) s = .next (s.withRsp (RspPort.result
      (if 2 ^ 23 ≤ 2 * Rules.mant x then Rules.cat (Rules.sign x) 1 (2 * Rules.mant x - 2 ^ 23)
        else Rules.cat (Rules.sign x) 0 0)))

/-! ### The operations -/

/-- FADD answers `flush(add_native(rs1, rs2))`, whatever `rs3` (R60, with R62). -/
def Obligations.FaddAnswersRoundedSum : Prop :=
  ∀ (a b c : Word) (s : State),
    exec (.fadd a b c) s = .next (s.withRsp (RspPort.result (Rules.flush (Rules.addNative a b))))

/-- FSUB answers `flush(add_native(rs1, neg(rs2)))` (R61, with R62), and `x - x` is plus zero for every finite
`x`. -/
def Obligations.FsubAnswersRoundedDifference : Prop :=
  (∀ (a b c : Word) (s : State),
    exec (.fsub a b c) s = .next (s.withRsp (RspPort.result (Rules.flush (Rules.addNative a (Rules.neg b)))))) ∧
  (∀ (x c : Word) (s : State), Rules.isFinite x = true →
    exec (.fsub x x c) s = .next (s.withRsp (RspPort.result 0x00000000#32)))

/-- FMUL answers `flush(mul_native(rs1, rs2))` (R65, with R66). -/
def Obligations.FmulAnswersRoundedProduct : Prop :=
  ∀ (a b c : Word) (s : State),
    exec (.fmul a b c) s = .next (s.withRsp (RspPort.result (Rules.flush (Rules.mulNative a b))))

/-- FADD and FMUL do not depend on the order of their operands (derived in R62 and R66), and a NaN operand of
either order gives `0x7FC00000` (R55; the spec's decision D9). -/
def Obligations.SumAndProductCommute : Prop :=
  ∀ (a b c : Word) (s : State),
    exec (.fadd a b c) s = exec (.fadd b a c) s ∧ exec (.fmul a b c) s = exec (.fmul b a c) s ∧
    (Rules.isNan a = true →
      ∀ i ∈ ([.fadd a b c, .fadd b a c, .fsub a b c, .fsub b a c, .fmul a b c, .fmul b a c] : List Instr),
        exec i s = .next (s.withRsp (RspPort.result 0x7FC00000#32)))

/-- FMIN and FMAX answer by the four cases of their rules, in their order (R70, R71; the spec's decision D11). -/
def Obligations.FminFmaxAnswerByPriority : Prop :=
  ∀ (a b c : Word) (s : State),
    exec (.fmin a b c) s = .next (s.withRsp (RspPort.result (Rules.fmin a b))) ∧
    exec (.fmax a b c) s = .next (s.withRsp (RspPort.result (Rules.fmax a b)))

/-- FMIN and FMAX do not depend on the order of their operands, for every pair of patterns (derived in R70). -/
def Obligations.MinMaxCommute : Prop :=
  ∀ (a b c : Word) (s : State),
    exec (.fmin a b c) s = exec (.fmin b a c) s ∧ exec (.fmax a b c) s = exec (.fmax b a c) s

/-- FEQ, FLT and FLE answer 1 or 0 by the order of R75, 0 when an operand is a NaN (R72, R73, R74). -/
def Obligations.ComparisonsAnswerByTheOrder : Prop :=
  ∀ (a b c : Word) (s : State),
    exec (.feq a b c) s = .next (s.withRsp (RspPort.result (Rules.feq a b))) ∧
    exec (.flt a b c) s = .next (s.withRsp (RspPort.result (Rules.flt a b))) ∧
    exec (.fle a b c) s = .next (s.withRsp (RspPort.result (Rules.fle a b)))

/-- For operands that are not NaN, FLE holds exactly when FLT or FEQ holds, and FEQ is bit equality but for the
two zeros (derived in R72 and R74). -/
def Obligations.ComparisonsAreConsistent : Prop :=
  ∀ (a b c : Word) (s : State), Rules.isNan a = false → Rules.isNan b = false →
    ∃ e l m : Bool,
      exec (.feq a b c) s = .next (s.withRsp (RspPort.result (if e then 1#32 else 0#32))) ∧
      exec (.flt a b c) s = .next (s.withRsp (RspPort.result (if l then 1#32 else 0#32))) ∧
      exec (.fle a b c) s = .next (s.withRsp (RspPort.result (if m then 1#32 else 0#32))) ∧
      m = (l || e) ∧ (l && e) = false ∧
      (e = true ↔ a = b ∨ (Rules.isZero a = true ∧ Rules.isZero b = true))

/-- F2UI answers the nearest integer, ties to even, when it lies in `0 .. 2^32 - 1`, and `F2I_OOR(F2UI, x)`, of
which nothing is claimed, everywhere else (R80; the spec's decision D12). -/
def Obligations.F2uiAnswersNearestInteger : Prop :=
  ∀ (x b c : Word) (s : State),
    exec (.f2ui x b c) s = .next (s.withRsp (RspPort.result (Rules.f2ui x)))

/-- F2SI answers the nearest integer, ties to even, when it lies in `-2^31 .. 2^31 - 1`, and `F2I_OOR(F2SI, x)`,
of which nothing is claimed, everywhere else (R81; the spec's decision D12). -/
def Obligations.F2siAnswersNearestInteger : Prop :=
  ∀ (x b c : Word) (s : State),
    exec (.f2si x b c) s = .next (s.withRsp (RspPort.result (Rules.f2si x)))

/-- UI2F answers `flush(round_rne(0, uint(x)))` (R82). -/
def Obligations.Ui2fAnswersRoundedInteger : Prop :=
  ∀ (x b c : Word) (s : State),
    exec (.ui2f x b c) s = .next (s.withRsp (RspPort.result (Rules.ui2f x)))

/-- UI2F converts integers up to `2^24` exactly, and its result is never negative, infinite or a NaN (R82). -/
def Obligations.Ui2fExactAndFinite : Prop :=
  ∀ (x b c : Word) (s : State), ∃ r,
    exec (.ui2f x b c) s = .next (s.withRsp (RspPort.result r)) ∧
    Rules.isFinite r = true ∧ Rules.sign r = 0 ∧ (x.toNat ≤ 2 ^ 24 → Rules.val r = (x.toNat : ℚ))

/-- SI2F answers the rounded integer with its sign (R83). -/
def Obligations.Si2fAnswersRoundedInteger : Prop :=
  ∀ (x b c : Word) (s : State),
    exec (.si2f x b c) s = .next (s.withRsp (RspPort.result (Rules.si2f x)))

/-- The round trip: for `sint(n) < 2^31 - 64`, SI2F of F2SI of SI2F of `n` is SI2F of `n` (derived in R84). -/
def Obligations.SignedRoundTripIsStable : Prop :=
  ∀ (n b c : Word) (s : State), Rules.sint n < 2 ^ 31 - 64 → ∃ x m : Word,
    exec (.si2f n b c) s = .next (s.withRsp (RspPort.result x)) ∧
    exec (.f2si x b c) s = .next (s.withRsp (RspPort.result m)) ∧
    exec (.si2f m b c) s = .next (s.withRsp (RspPort.result x)) ∧
    (Rules.sint m : ℚ) = Rules.val x

/-- FSGNJ, FSGNJN and FSGNJX put a sign on the magnitude of `rs1` and flush the result (R90, R91, R92). -/
def Obligations.SignInjectionAnswers : Prop :=
  ∀ (a b c : Word) (s : State),
    exec (.fsgnj a b c) s = .next (s.withRsp (RspPort.result (Rules.fsgnj a b))) ∧
    exec (.fsgnjn a b c) s = .next (s.withRsp (RspPort.result (Rules.fsgnjn a b))) ∧
    exec (.fsgnjx a b c) s = .next (s.withRsp (RspPort.result (Rules.fsgnjx a b)))

/-- The pseudo-operations: FMOV is the flush of its operand, FNEG the flush with the sign bit inverted, FABS the
flush with the sign bit cleared (derived in R43). -/
def Obligations.PseudoOperationsFlush : Prop :=
  ∀ (a : Word) (s : State),
    exec (.fmov a) s = .next (s.withRsp (RspPort.result (Rules.flush a))) ∧
    exec (.fneg a) s = .next (s.withRsp (RspPort.result (Rules.flush a ^^^ 0x80000000#32))) ∧
    exec (.fabs a) s = .next (s.withRsp (RspPort.result (Rules.flush a &&& 0x7FFFFFFF#32)))

/-- FCLASS answers the mask of R95's table, the operand unflushed (R95; the spec's decision D8). -/
def Obligations.FclassAnswersTheTable : Prop :=
  ∀ (x b c : Word) (s : State),
    exec (.fclass x b c) s = .next (s.withRsp (RspPort.result (Rules.fclass x)))

/-- FCLASS sets exactly one of bits 9:0 and leaves bits 31:10 zero, for every pattern (R95, R36). -/
def Obligations.FclassIsOneHot : Prop :=
  ∀ (x b c : Word) (s : State), ∃ k, k < 10 ∧
    exec (.fclass x b c) s = .next (s.withRsp (RspPort.result (BitVec.ofNat 32 (2 ^ k))))

/-! ### The reference functions, which no response carries -/

/-- FDIV answers illegal whatever its operands, and the reference quotient beside it is the rule's (R100, with R106
and R108; the spec's decisions D6, D9). -/
def Obligations.RefFdivIsRoundedQuotient : Prop :=
  (∀ a b : Word, refFdiv a b = Rules.flush (Rules.divNative a b)) ∧
  (∀ (a b c : Word) (s : State), exec (.fdiv a b c) s = .next (s.withRsp illegalRsp))

/-- The reference square root: NaN for a NaN and for a negative nonzero operand, a zero and plus infinity
themselves, and for a positive finite operand a normal pattern whose value is nearer to the square root than
any other value, decided by squares of midpoints (R101, R107; the NaN pattern `0x7FC00000` is the spec's decision D9,
log entry 5). -/
def Obligations.RefFsqrtIsNearestRoot : Prop :=
  (∀ a : Word, Rules.isNan a = true → refFsqrt a = 0x7FC00000#32) ∧
  (∀ a : Word, Rules.isZero a = true → refFsqrt a = a) ∧
  (∀ a : Word, Rules.sign a = 1 → Rules.isZero a = false → refFsqrt a = 0x7FC00000#32) ∧
  refFsqrt 0x7F800000#32 = 0x7F800000#32 ∧
  (∀ a : Word, Rules.isFinite a = true → Rules.isZero a = false → Rules.sign a = 0 →
    Rules.isNorm (refFsqrt a) = true ∧ Rules.sign (refFsqrt a) = 0 ∧
    ∀ y : Word, Rules.isFinite y = true → Rules.sign y = 0 →
      (Rules.val (refFsqrt a) < Rules.val y → 4 * Rules.val a < (Rules.val (refFsqrt a) + Rules.val y) ^ 2) ∧
      (Rules.val y < Rules.val (refFsqrt a) → (Rules.val (refFsqrt a) + Rules.val y) ^ 2 < 4 * Rules.val a))

/-- FMA, FMS, FNMS and FNMA answer illegal whatever their operands, and the reference forms beside them round twice,
the product unflushed, and flush once at the end (R102 to R105, with R108; the spec's decision D6). -/
def Obligations.RefMultiplyAddRoundsTwice : Prop :=
  (∀ (a b c : Word) (s : State),
    ∀ i ∈ ([.fma a b c, .fms a b c, .fnms a b c, .fnma a b c] : List Instr),
      exec i s = .next (s.withRsp illegalRsp)) ∧
  ∀ a b c : Word,
    refFma a b c = Rules.flush (Rules.addNative (Rules.mulNative a b) c) ∧
    refFms a b c = Rules.flush (Rules.addNative (Rules.mulNative a b) (Rules.neg c)) ∧
    refFnms a b c = Rules.flush (Rules.addNative (Rules.neg (Rules.mulNative a b)) c) ∧
    refFnma a b c = Rules.flush (Rules.addNative (Rules.neg (Rules.mulNative a b)) (Rules.neg c))
end

