-- ==== Sys2Proof/Laws/Decode.lean ====
section
/-! SUPPORT. What the decoder of the command port reads and what the encoder writes, field by field. -/

namespace Sys2Proof.Laws

open Sys2Proof

set_option Elab.async false

/-- The decoder keeps the code and the three operand fields (R30, R31, R37). -/
theorem decodeCmd_fields (op : OpCode) (a b c : Word) :
    (decodeCmd op a b c).opcode = op ∧ (decodeCmd op a b c).rs1 = a ∧ (decodeCmd op a b c).rs2 = b ∧
      (decodeCmd op a b c).rs3 = c := by
  have codes : ∀ op : OpCode, (decodeCmd op 0 0 0).opcode = op := by decide
  have same : (decodeCmd op a b c).opcode = (decodeCmd op 0 0 0).opcode := by
    unfold decodeCmd; split <;> rfl
  refine ⟨same.trans (codes op), ?_, ?_, ?_⟩ <;> (unfold decodeCmd; split <;> rfl)

/-- A command is what the decoder reads from its own fields. -/
theorem decodeCmd_self (i : Instr) : decodeCmd i.opcode i.rs1 i.rs2 i.rs3 = i := by
  cases i <;> simp [decodeCmd, Instr.opcode, Instr.rs1, Instr.rs2, Instr.rs3]

/-- The widths of `Instr`'s types make every command well-formed (R30). -/
theorem wellFormed_all (i : Instr) : i.wellFormed = true := by
  simp only [Instr.wellFormed, RawCmd.wellFormed, Bool.and_eq_true]
  exact ⟨⟨⟨decide_eq_true i.opcode.isLt, decide_eq_true i.rs1.isLt⟩, decide_eq_true i.rs2.isLt⟩,
    decide_eq_true i.rs3.isLt⟩

/-- A raw command that fits decodes to the command on its four numbers. -/
theorem decodeRaw_fits {c : RawCmd} (h : c.wellFormed = true) :
    decodeRaw c = .ok (decodeCmd (BitVec.ofNat 5 c.op) (BitVec.ofNat 32 c.rs1) (BitVec.ofNat 32 c.rs2)
      (BitVec.ofNat 32 c.rs3)) := by
  simp only [RawCmd.wellFormed, Bool.and_eq_true] at h
  obtain ⟨⟨⟨h0, h1⟩, h2⟩, h3⟩ := h
  simp [decodeRaw, h0, h1, h2, h3]

/-- A raw command decodes only when it fits (R30). -/
theorem decodeRaw_ok {c : RawCmd} {i : Instr} (h : decodeRaw c = .ok i) : c.wellFormed = true := by
  simp only [decodeRaw] at h
  split_ifs at h with h0 h1 h2 h3
  simp_all [RawCmd.wellFormed]

end Sys2Proof.Laws
end

