-- ==== Sys2Proof/Laws/State.lean ====
section
/-! SUPPORT. One lemma per field of State per update. -/

namespace Sys2Proof.Machine

@[simp] theorem State.withRsp_pins (s : State) (r : RspPort) : (s.withRsp r).pins = s.pins := rfl
@[simp] theorem State.withRsp_rsp (s : State) (r : RspPort) : (s.withRsp r).rsp = r := rfl
@[simp] theorem State.withRsp_inputs (s : State) (r : RspPort) : (s.withRsp r).inputs = s.inputs := rfl
@[simp] theorem State.withRsp_draws (s : State) (r : RspPort) : (s.withRsp r).draws = s.draws := rfl

@[simp] theorem State.withPins_pins (s : State) (p : Pins) : (s.withPins p).pins = p := rfl
@[simp] theorem State.withPins_rsp (s : State) (p : Pins) : (s.withPins p).rsp = s.rsp := rfl
@[simp] theorem State.withPins_inputs (s : State) (p : Pins) : (s.withPins p).inputs = s.inputs := rfl
@[simp] theorem State.withPins_draws (s : State) (p : Pins) : (s.withPins p).draws = s.draws := rfl

@[simp] theorem silent_pins (s : State) : (silent s).pins = s.pins := rfl
@[simp] theorem silent_valid (s : State) : (silent s).rsp.valid = false := rfl
@[simp] theorem silent_inputs (s : State) : (silent s).inputs = s.inputs := rfl
@[simp] theorem silent_draws (s : State) : (silent s).draws = s.draws + 1 := rfl

@[simp] theorem RspPort.result_valid (d : Word) : (RspPort.result d).valid = true := rfl
@[simp] theorem RspPort.result_data (d : Word) : (RspPort.result d).data = d := rfl
@[simp] theorem RspPort.result_illegal (d : Word) : (RspPort.result d).illegal = false := rfl

@[simp] theorem illegalRsp_valid : illegalRsp.valid = true := rfl
@[simp] theorem illegalRsp_data : illegalRsp.data = Config.illegalData := rfl
@[simp] theorem illegalRsp_illegal : illegalRsp.illegal = true := rfl

end Sys2Proof.Machine
end

