-- ==== Sys2Proof/Laws/Patterns.lean ====
section
/-! SUPPORT. The machine's reading of a pattern (Machine/Operands.lean, Machine/Ops.lean) against the rules' reading
of the same pattern as a number (Rules.lean), one lemma per definition. -/

namespace Sys2Proof.Laws

open Sys2Proof Sys2Proof.Machine

set_option Elab.async false

theorem toNat_lt (x : Word) : x.toNat < 2 ^ 32 := x.isLt

theorem sign_rule (x : Word) : Rules.sign x = (sign x).toNat := by
  have h := toNat_lt x
  simp only [Rules.sign, sign, BitVec.getLsbD, Nat.testBit_eq_decide_div_mod_eq]
  rcases (by omega : x.toNat / 2 ^ 31 = 0 ∨ x.toNat / 2 ^ 31 = 1) with hx | hx <;> rw [hx] <;> rfl

theorem expo_rule (x : Word) : expo x = Rules.expo x := by
  simp [expo, Rules.expo, BitVec.extractLsb'_toNat, Nat.shiftRight_eq_div_pow]

theorem mant_rule (x : Word) : mant x = Rules.mant x := by
  simp [mant, Rules.mant, BitVec.extractLsb'_toNat]

theorem expo_lt (x : Word) : Rules.expo x < 2 ^ 8 := Nat.mod_lt _ (by decide)

theorem mant_lt (x : Word) : Rules.mant x < 2 ^ 23 := Nat.mod_lt _ (by decide)

theorem sign_le_one (x : Word) : Rules.sign x ≤ 1 := by
  have h := toNat_lt x
  simp only [Rules.sign]
  omega

/-- A pattern is its three fields (R33). -/
theorem toNat_fields (x : Word) :
    x.toNat = Rules.sign x * 2 ^ 31 + Rules.expo x * 2 ^ 23 + Rules.mant x := by
  have h := toNat_lt x
  simp only [Rules.sign, Rules.expo, Rules.mant]
  omega

theorem isZero_rule (x : Word) : isZero x = Rules.isZero x := by
  rw [Bool.eq_iff_iff]; simp [isZero, Rules.isZero, expo_rule, mant_rule]

theorem isSub_rule (x : Word) : isSub x = Rules.isSub x := by
  rw [Bool.eq_iff_iff]; simp [isSub, Rules.isSub, expo_rule, mant_rule]

theorem isNorm_rule (x : Word) : isNorm x = Rules.isNorm x := by
  rw [Bool.eq_iff_iff]; simp [isNorm, Rules.isNorm, expo_rule]

theorem isInf_rule (x : Word) : isInf x = Rules.isInf x := by
  rw [Bool.eq_iff_iff]; simp [isInf, Rules.isInf, expo_rule, mant_rule]

theorem isNan_rule (x : Word) : isNan x = Rules.isNan x := by
  rw [Bool.eq_iff_iff]; simp [isNan, Rules.isNan, expo_rule, mant_rule]

theorem isFinite_rule (x : Word) : isFinite x = Rules.isFinite x := by
  rw [Bool.eq_iff_iff]; simp [isFinite, Rules.isFinite, expo_rule]

theorem cat_toNat {s e m : Nat} (hs : s ≤ 1) (he : e < 2 ^ 8) (hm : m < 2 ^ 23) :
    (Rules.cat s e m).toNat = s * 2 ^ 31 + e * 2 ^ 23 + m := by
  simp only [Rules.cat, BitVec.toNat_ofNat]
  apply Nat.mod_eq_of_lt
  omega

theorem sign_cat {s e m : Nat} (hs : s ≤ 1) (he : e < 2 ^ 8) (hm : m < 2 ^ 23) :
    Rules.sign (Rules.cat s e m) = s := by
  simp only [Rules.sign, cat_toNat hs he hm]; omega

theorem expo_cat {s e m : Nat} (hs : s ≤ 1) (he : e < 2 ^ 8) (hm : m < 2 ^ 23) :
    Rules.expo (Rules.cat s e m) = e := by
  simp only [Rules.expo, cat_toNat hs he hm]; omega

theorem mant_cat {s e m : Nat} (hs : s ≤ 1) (he : e < 2 ^ 8) (hm : m < 2 ^ 23) :
    Rules.mant (Rules.cat s e m) = m := by
  simp only [Rules.mant, cat_toNat hs he hm]; omega

theorem cat_fields (x : Word) : Rules.cat (Rules.sign x) (Rules.expo x) (Rules.mant x) = x := by
  apply BitVec.eq_of_toNat_eq
  rw [cat_toNat (sign_le_one x) (expo_lt x) (mant_lt x), ← toNat_fields]

theorem bool_toNat_le (s : Bool) : s.toNat ≤ 1 := Bool.toNat_le s

theorem pack_rule (s : Bool) {e m : Nat} (he : e < 2 ^ 8) (hm : m < 2 ^ 23) :
    pack s e m = Rules.cat s.toNat e m := by
  apply BitVec.eq_of_toNat_eq
  rw [cat_toNat (bool_toNat_le s) he hm]
  simp only [pack, BitVec.toNat_append, BitVec.toNat_ofNat, BitVec.toNat_ofBool,
    Nat.mod_eq_of_lt he, Nat.mod_eq_of_lt hm]
  rw [← Nat.shiftLeft_add_eq_or_of_lt he, ← Nat.shiftLeft_add_eq_or_of_lt hm]
  simp only [Nat.shiftLeft_eq]
  omega

theorem zeroOf_rule (s : Bool) : zeroOf s = Rules.cat s.toNat 0 0 := pack_rule s (by decide) (by decide)

theorem infOf_rule (s : Bool) : infOf s = Rules.cat s.toNat 255 0 := pack_rule s (by decide) (by decide)

/-- Inverting bit 31 moves a number below `2^32` by `2^31`. -/
theorem xor_top (r s : Nat) (hr : r < 2 ^ 31) (hs : s ≤ 1) :
    (2 ^ 31 * s + r) ^^^ 2 ^ 31 = 2 ^ 31 * (1 - s) + r := by
  apply Nat.eq_of_testBit_eq
  intro j
  rw [Nat.testBit_xor, Nat.testBit_two_pow_mul_add _ hr, Nat.testBit_two_pow_mul_add _ hr, Nat.testBit_two_pow]
  rcases Nat.lt_trichotomy j 31 with h | rfl | h
  · have h31 : decide (31 = j) = false := by simp; omega
    simp [h, h31]
  · rcases (by omega : s = 0 ∨ s = 1) with rfl | rfl <;> simp
  · have h31 : decide (31 = j) = false := by simp; omega
    have h1 : Nat.testBit 1 (j - 31) = false := Nat.testBit_lt_two_pow (Nat.one_lt_two_pow (by omega))
    have hj : ¬ j < 31 := by omega
    rcases (by omega : s = 0 ∨ s = 1) with rfl | rfl <;> simp [hj, h31, h1]

theorem neg_rule (x : Word) : neg x = Rules.neg x := by
  apply BitVec.eq_of_toNat_eq
  have hs := sign_le_one x
  have he := expo_lt x
  have hm := mant_lt x
  have hx := xor_top (Rules.expo x * 2 ^ 23 + Rules.mant x) (Rules.sign x) (by omega) hs
  rw [Rules.neg, cat_toNat (by omega) he hm, neg, BitVec.toNat_xor, toNat_fields x]
  rw [(by decide : BitVec.toNat 0x80000000#32 = 2 ^ 31),
    (by omega : Rules.sign x * 2 ^ 31 + Rules.expo x * 2 ^ 23 + Rules.mant x =
      2 ^ 31 * Rules.sign x + (Rules.expo x * 2 ^ 23 + Rules.mant x)), hx]
  omega

theorem flush_rule (x : Word) : flush x = Rules.flush x := by
  simp only [flush, Rules.flush, isSub_rule, zeroOf_rule, sign_rule]

theorem sign_eq_iff (a b : Word) : sign a = sign b ↔ Rules.sign a = Rules.sign b := by
  rw [sign_rule, sign_rule]; cases sign a <;> cases sign b <;> simp

theorem xor_rule (a b : Word) : (sign a ^^ sign b).toNat = Rules.signXor a b := by
  simp only [Rules.signXor, ← sign_eq_iff]; cases sign a <;> cases sign b <;> simp

theorem sint_rule (x : Word) : sint x = Rules.sint x := by
  have h := toNat_lt x
  simp only [sint, Rules.sint, BitVec.toInt]
  split_ifs <;> omega

/-- A pattern is the one its three fields give. -/
theorem eq_cat_iff (x : Word) {s e m : Nat} (hs : s ≤ 1) (he : e < 2 ^ 8) (hm : m < 2 ^ 23) :
    x = Rules.cat s e m ↔ Rules.sign x = s ∧ Rules.expo x = e ∧ Rules.mant x = m := by
  constructor
  · rintro rfl; exact ⟨sign_cat hs he hm, expo_cat hs he hm, mant_cat hs he hm⟩
  · rintro ⟨rfl, rfl, rfl⟩; exact (cat_fields x).symm

theorem expo_neg (x : Word) : Rules.expo (Rules.neg x) = Rules.expo x :=
  expo_cat (Nat.sub_le _ _) (expo_lt x) (mant_lt x)

theorem mant_neg (x : Word) : Rules.mant (Rules.neg x) = Rules.mant x :=
  mant_cat (Nat.sub_le _ _) (expo_lt x) (mant_lt x)

theorem sign_neg (x : Word) : Rules.sign (Rules.neg x) = 1 - Rules.sign x :=
  sign_cat (Nat.sub_le _ _) (expo_lt x) (mant_lt x)

/-- The sign selector replaces the sign and flushes (45_sign_injection.md). -/
theorem inject_rule (t : Bool) (x : Word) :
    inject t x = Rules.flush (Rules.cat t.toNat (Rules.expo x) (Rules.mant x)) := by
  have he := expo_lt x
  have hm := mant_lt x
  have hs := sign_le_one x
  have low : (x.extractLsb' 0 31).toNat = Rules.expo x * 2 ^ 23 + Rules.mant x := by
    rw [BitVec.extractLsb'_toNat, toNat_fields x]; simp; omega
  rw [inject, flush_rule]
  congr 1
  apply BitVec.eq_of_toNat_eq
  rw [cat_toNat (bool_toNat_le t) he hm, BitVec.toNat_append, low, BitVec.toNat_ofBool,
    ← Nat.shiftLeft_add_eq_or_of_lt (by omega), Nat.shiftLeft_eq]
  omega

end Sys2Proof.Laws
end

