-- ==== Sys2Proof/Laws/Values.lean ====
section
/-! SUPPORT. The machine's whole-number arithmetic against the rules' rational arithmetic: values, sizes and the
packing of a rounded magnitude. -/

namespace Sys2Proof.Laws

open Sys2Proof Sys2Proof.Machine

set_option Elab.async false

theorem scale_cast : ((scale : Nat) : ℚ) = 2 ^ 149 := by norm_num [scale]

theorem scale_pos : 0 < scale := by norm_num [scale]

/-- `abs(val(x))` is the machine's `mag x` in units of `1 / scale` (R50). -/
theorem mag_rule (x : Word) :
    (if Rules.expo x = 0 then 2 ^ (-126 : ℤ) * ((Rules.mant x : ℚ) / 2 ^ 23)
      else 2 ^ ((Rules.expo x : ℤ) - 127) * (1 + (Rules.mant x : ℚ) / 2 ^ 23)) = (mag x : ℚ) / 2 ^ 149 := by
  simp only [mag, expo_rule, mant_rule]
  by_cases h : Rules.expo x = 0
  · simp only [h, if_true]
    norm_num
    ring
  · obtain ⟨k, hk⟩ := Nat.exists_eq_succ_of_ne_zero h
    simp only [hk, Nat.succ_ne_zero, if_false, Nat.succ_sub_one, Nat.succ_eq_add_one]
    rw [(by push_cast; ring : ((k + 1 : Nat) : ℤ) - 127 = (k : ℤ) - 126), zpow_sub₀ (by norm_num), zpow_natCast]
    push_cast
    norm_num
    ring

theorem val_rule (x : Word) : Rules.val x = (scaled x : ℚ) / 2 ^ 149 := by
  rw [Rules.val, mag_rule, sign_rule, scaled]
  cases sign x <;> simp [neg_div]

theorem abs_val_rule (x : Word) : |Rules.val x| = (mag x : ℚ) / 2 ^ 149 := by
  rw [val_rule, abs_div, abs_of_pos (by positivity : (0 : ℚ) < 2 ^ 149), scaled]
  cases sign x <;> simp

theorem log2_bounds {n : Nat} (h : n ≠ 0) : 2 ^ Nat.log2 n ≤ n ∧ n < 2 ^ (Nat.log2 n + 1) :=
  ⟨Nat.log2_self_le h, Nat.lt_log2_self⟩

/-- `floor(log2(q))` from the two bounds that fix it. -/
theorem int_log_eq {q : ℚ} {e : ℤ} (h₁ : 2 ^ e ≤ q) (h₂ : q < 2 ^ (e + 1)) : Int.log 2 q = e := by
  have hq : 0 < q := lt_of_lt_of_le (by positivity) h₁
  have hl := Int.zpow_log_le_self (b := 2) (by norm_num) hq
  have hu := Int.lt_zpow_succ_log_self (b := 2) (by norm_num) q
  push_cast at hl hu
  have a := (zpow_lt_zpow_iff_right₀ (by norm_num : (1 : ℚ) < 2)).1 (lt_of_le_of_lt hl h₂)
  have b := (zpow_lt_zpow_iff_right₀ (by norm_num : (1 : ℚ) < 2)).1 (lt_of_le_of_lt h₁ hu)
  omega

/-- `floor(log2)` of a whole number of units of `1 / scale`. -/
theorem int_log_units {v : Nat} (h : v ≠ 0) : Int.log 2 ((v : ℚ) / 2 ^ 149) = (Nat.log2 v : ℤ) - 149 := by
  obtain ⟨h₁, h₂⟩ := log2_bounds h
  have h₁ : (2 : ℚ) ^ Nat.log2 v ≤ v := by exact_mod_cast h₁
  have h₂ : (v : ℚ) < 2 ^ (Nat.log2 v + 1) := by exact_mod_cast h₂
  apply int_log_eq
  · rw [zpow_sub₀ (by norm_num), zpow_natCast]
    exact (div_le_div_iff_of_pos_right (by norm_num)).2 h₁
  · rw [(by push_cast; ring : (Nat.log2 v : ℤ) - 149 + 1 = ((Nat.log2 v + 1 : Nat) : ℤ) - 149), zpow_sub₀ (by norm_num), zpow_natCast]
    exact (div_lt_div_iff_of_pos_right (by norm_num)).2 h₂

end Sys2Proof.Laws
end

