-- ==== Sys2Proof/Laws/Ops.lean ====
section
/-! SUPPORT. Each shared operation, said once: the two answers, silence, how the ports move on, the order of two
patterns, and a step that answers nothing. -/

namespace Sys2Proof.Laws

open Sys2Proof Sys2Proof.Machine

set_option Elab.async false

theorem answer_eq (d : Word) (s : State) : answer d s = .next (s.withRsp (RspPort.result d)) := rfl

theorem raiseIllegal_eq (s : State) : raiseIllegal s = .next (s.withRsp illegalRsp) := rfl

/-- What `advance` does to each field: only the pins and the host's moves change. -/
theorem advance_fields (s : State) :
    (advance s).pins = nextPins s ∧ (advance s).inputs = s.inputs.tail ∧ (advance s).rsp = s.rsp ∧
      (advance s).draws = s.draws := by
  obtain ⟨p, r, l, d⟩ := s
  cases l <;> exact ⟨rfl, rfl, rfl, rfl⟩

/-- A command taken from the port is on the port. -/
theorem ofInstr_fetch {s : State} (h : s.pins.cmd.valid = true) : CmdPort.ofInstr (fetch s) = s.pins.cmd := by
  have e := decodeCmd_fields s.pins.cmd.op s.pins.cmd.rs1 s.pins.cmd.rs2 s.pins.cmd.rs3
  obtain ⟨⟨r, ⟨v, o, a, b, c⟩⟩, _, _, _⟩ := s
  simp only [CmdPort.ofInstr, fetch, e] at h ⊢
  rw [h]

/-- Under reset or with no command presented a step is silent (R16, R120). -/
theorem step_silent {s : State} (h : s.pins.answers = false) : step s = .next (advance (silent s)) := by
  simp only [Pins.answers] at h
  cases hr : s.pins.rst <;> simp_all [step]

/-- A step that answers runs the command on the port (R16). -/
theorem step_exec {s : State} (h : s.pins.answers = true) : step s = thenAdvance (exec (fetch s) s) := by
  simp only [Pins.answers, Bool.and_eq_true, Bool.not_eq_true'] at h
  simp [step, h.1, h.2]

/-- `ext(x)` of the machine as the rules' (R75). -/
def ruleExt : Machine.Ext → Rules.Ext
  | .negInf => .negInf
  | .fin n => .fin ((n : ℚ) / 2 ^ 149)
  | .posInf => .posInf

theorem pinf_iff (x : Word) : x = 0x7F800000#32 ↔ Rules.sign x = 0 ∧ Rules.expo x = 255 ∧ Rules.mant x = 0 :=
  eq_cat_iff x (s := 0) (e := 255) (m := 0) (by decide) (by decide) (by decide)

theorem ninf_iff (x : Word) : x = 0xFF800000#32 ↔ Rules.sign x = 1 ∧ Rules.expo x = 255 ∧ Rules.mant x = 0 :=
  eq_cat_iff x (s := 1) (e := 255) (m := 0) (by decide) (by decide) (by decide)

theorem pzero_iff (x : Word) : x = 0x00000000#32 ↔ Rules.sign x = 0 ∧ Rules.expo x = 0 ∧ Rules.mant x = 0 :=
  eq_cat_iff x (s := 0) (e := 0) (m := 0) (by decide) (by decide) (by decide)

theorem nzero_iff (x : Word) : x = 0x80000000#32 ↔ Rules.sign x = 1 ∧ Rules.expo x = 0 ∧ Rules.mant x = 0 :=
  eq_cat_iff x (s := 1) (e := 0) (m := 0) (by decide) (by decide) (by decide)

theorem ext_rule (x : Word) : Rules.ext x = ruleExt (Machine.ext x) := by
  have hs := sign_rule x
  have h1 := sign_le_one x
  simp only [Rules.ext, Machine.ext, pinf_iff, ninf_iff, isInf_rule, Rules.isInf, val_rule]
  by_cases he : Rules.expo x = 255 <;> by_cases hm : Rules.mant x = 0 <;> simp [he, hm, ruleExt]
  rw [hs]; cases sign x <;> simp

theorem ext_lt_rule (a b : Machine.Ext) : (ruleExt a).lt (ruleExt b) = a.lt b := by
  cases a <;> cases b <;> simp [ruleExt, Rules.Ext.lt, Machine.Ext.lt]
  rw [div_lt_div_iff_of_pos_right (by norm_num)]; exact_mod_cast Iff.rfl

theorem less_rule (a b : Word) : Machine.less a b = Rules.less a b := by
  rw [Rules.less, ext_rule, ext_rule, ext_lt_rule]; rfl

theorem greater_rule (a b : Word) : Machine.greater a b = Rules.greater a b := by
  rw [Rules.greater, ext_rule, ext_rule, ext_lt_rule]; rfl

end Sys2Proof.Laws
end

