-- ==== Sys2Proof/Laws/PerInstr.lean ====
section
/-! SUPPORT. The family `Row`: what the opcode table says of every row, one lemma per constructor. -/

namespace Sys2Proof.Laws.Row

open Sys2Proof

set_option Elab.async false

/-- The row's command is well-formed, its code stands in bits 100:96 of its command word (R30), it is read back
from its fields, and it is implemented exactly when a unit carries it out and it has a result (R37, R39). -/
def Statement (i : Instr) : Prop :=
  i.wellFormed = true ∧ (encode i).extractLsb' 96 5 = i.opcode ∧
  decodeCmd i.opcode i.rs1 i.rs2 i.rs3 = i ∧
  (i.implemented = true ↔ i.unit ≠ .noUnit) ∧ (i.implemented = true ↔ i.resultKind ≠ .noResult)

/-- The code stands in bits 100:96 (R30). -/
theorem code_bits (i : Instr) : (encode i).extractLsb' 96 5 = i.opcode := by
  apply BitVec.eq_of_getLsbD_eq
  intro k hk
  have h1 : ¬ 96 + k < 32 := by omega
  have h2 : ¬ 96 + k - 32 < 32 := by omega
  have h3 : ¬ 96 + k - 32 - 32 < 32 := by omega
  simp only [encode, BitVec.getLsbD_extractLsb', BitVec.getLsbD_append, hk, decide_true, Bool.true_and, h1, h2, h3,
    if_false]
  congr 1
  omega

/-- A row of an implemented code. -/
theorem of_implemented {i : Instr} (hi : i.implemented = true) (hu : i.unit ≠ .noUnit) (hr : i.resultKind ≠ .noResult) :
    Statement i :=
  ⟨wellFormed_all i, code_bits i, decodeCmd_self i, iff_of_true hi hu, iff_of_true hi hr⟩

/-- A row of an illegal code. -/
theorem of_illegal {i : Instr} (hi : i.implemented = false) (hu : i.unit = .noUnit) (hr : i.resultKind = .noResult) :
    Statement i :=
  ⟨wellFormed_all i, code_bits i, decodeCmd_self i, iff_of_false (by rw [hi]; exact Bool.false_ne_true) (not_not.2 hu),
    iff_of_false (by rw [hi]; exact Bool.false_ne_true) (not_not.2 hr)⟩

theorem fadd (rs1 rs2 rs3 : Word) : Statement (.fadd rs1 rs2 rs3) := of_implemented rfl nofun nofun

theorem fsub (rs1 rs2 rs3 : Word) : Statement (.fsub rs1 rs2 rs3) := of_implemented rfl nofun nofun

theorem fmul (rs1 rs2 rs3 : Word) : Statement (.fmul rs1 rs2 rs3) := of_implemented rfl nofun nofun

theorem fmin (rs1 rs2 rs3 : Word) : Statement (.fmin rs1 rs2 rs3) := of_implemented rfl nofun nofun

theorem fmax (rs1 rs2 rs3 : Word) : Statement (.fmax rs1 rs2 rs3) := of_implemented rfl nofun nofun

theorem feq (rs1 rs2 rs3 : Word) : Statement (.feq rs1 rs2 rs3) := of_implemented rfl nofun nofun

theorem flt (rs1 rs2 rs3 : Word) : Statement (.flt rs1 rs2 rs3) := of_implemented rfl nofun nofun

theorem fle (rs1 rs2 rs3 : Word) : Statement (.fle rs1 rs2 rs3) := of_implemented rfl nofun nofun

theorem f2ui (rs1 rs2 rs3 : Word) : Statement (.f2ui rs1 rs2 rs3) := of_implemented rfl nofun nofun

theorem f2si (rs1 rs2 rs3 : Word) : Statement (.f2si rs1 rs2 rs3) := of_implemented rfl nofun nofun

theorem ui2f (rs1 rs2 rs3 : Word) : Statement (.ui2f rs1 rs2 rs3) := of_implemented rfl nofun nofun

theorem si2f (rs1 rs2 rs3 : Word) : Statement (.si2f rs1 rs2 rs3) := of_implemented rfl nofun nofun

theorem fsgnj (rs1 rs2 rs3 : Word) : Statement (.fsgnj rs1 rs2 rs3) := of_implemented rfl nofun nofun

theorem fsgnjn (rs1 rs2 rs3 : Word) : Statement (.fsgnjn rs1 rs2 rs3) := of_implemented rfl nofun nofun

theorem fsgnjx (rs1 rs2 rs3 : Word) : Statement (.fsgnjx rs1 rs2 rs3) := of_implemented rfl nofun nofun

theorem fclass (rs1 rs2 rs3 : Word) : Statement (.fclass rs1 rs2 rs3) := of_implemented rfl nofun nofun

theorem flush (rs1 rs2 rs3 : Word) : Statement (.flush rs1 rs2 rs3) := of_implemented rfl nofun nofun

theorem fdiv (rs1 rs2 rs3 : Word) : Statement (.fdiv rs1 rs2 rs3) := of_illegal rfl rfl rfl

theorem fsqrt (rs1 rs2 rs3 : Word) : Statement (.fsqrt rs1 rs2 rs3) := of_illegal rfl rfl rfl

theorem fma (rs1 rs2 rs3 : Word) : Statement (.fma rs1 rs2 rs3) := of_illegal rfl rfl rfl

theorem fms (rs1 rs2 rs3 : Word) : Statement (.fms rs1 rs2 rs3) := of_illegal rfl rfl rfl

theorem fnms (rs1 rs2 rs3 : Word) : Statement (.fnms rs1 rs2 rs3) := of_illegal rfl rfl rfl

theorem fnma (rs1 rs2 rs3 : Word) : Statement (.fnma rs1 rs2 rs3) := of_illegal rfl rfl rfl

theorem reserved23 (rs1 rs2 rs3 : Word) : Statement (.reserved23 rs1 rs2 rs3) := of_illegal rfl rfl rfl

theorem reserved24 (rs1 rs2 rs3 : Word) : Statement (.reserved24 rs1 rs2 rs3) := of_illegal rfl rfl rfl

theorem reserved25 (rs1 rs2 rs3 : Word) : Statement (.reserved25 rs1 rs2 rs3) := of_illegal rfl rfl rfl

theorem reserved26 (rs1 rs2 rs3 : Word) : Statement (.reserved26 rs1 rs2 rs3) := of_illegal rfl rfl rfl

theorem reserved27 (rs1 rs2 rs3 : Word) : Statement (.reserved27 rs1 rs2 rs3) := of_illegal rfl rfl rfl

theorem reserved28 (rs1 rs2 rs3 : Word) : Statement (.reserved28 rs1 rs2 rs3) := of_illegal rfl rfl rfl

theorem reserved29 (rs1 rs2 rs3 : Word) : Statement (.reserved29 rs1 rs2 rs3) := of_illegal rfl rfl rfl

theorem reserved30 (rs1 rs2 rs3 : Word) : Statement (.reserved30 rs1 rs2 rs3) := of_illegal rfl rfl rfl

theorem reserved31 (rs1 rs2 rs3 : Word) : Statement (.reserved31 rs1 rs2 rs3) := of_illegal rfl rfl rfl

end Sys2Proof.Laws.Row
end

