-- ==== Sys2Proof/Laws/Rounding.lean ====
section
/-! SUPPORT. What rounding can do, said once: `rneInt` (R51), `roundRne` and `packMag` (R53), and where the
representable magnitudes lie. -/

namespace Sys2Proof.Laws

open Sys2Proof Sys2Proof.Machine

set_option Elab.async false

/-- `rneInt` is within half a unit, and is even at a tie (R51). -/
theorem rneInt_spec (num : Int) {den : Nat} (hd : 0 < den) :
    2 * (rneInt num den * den) ≤ 2 * num + den ∧ 2 * num ≤ 2 * (rneInt num den * den) + den ∧
    ((2 * (rneInt num den * den) = 2 * num + den ∨ 2 * num = 2 * (rneInt num den * den) + den) →
      rneInt num den % 2 = 0) := by
  have h1 := Int.emod_add_mul_ediv num den
  have h2 := Int.emod_nonneg num (by omega : (den : Int) ≠ 0)
  have h3 := Int.emod_lt_of_pos num (by omega : (0 : Int) < den)
  simp only [rneInt]
  generalize num % (den : Int) = r at *
  generalize num / (den : Int) = f at *
  have e1 : f * (den : Int) = den * f := Int.mul_comm _ _
  have e2 : (f + 1) * (den : Int) = den * f + den := by rw [Int.add_mul, Int.one_mul, Int.mul_comm]
  generalize (den : Int) * f = p at *
  split_ifs with a b c <;> (try rw [e1]) <;> (try rw [e2]) <;> refine ⟨by omega, by omega, by omega⟩

theorem rneInt_nonneg (num den : Nat) : 0 ≤ rneInt num den := by
  have : 0 ≤ (num : Int) / (den : Int) := Int.ediv_nonneg (by positivity) (by positivity)
  simp only [rneInt]
  split_ifs <;> omega

/-- `roundRne` packs `R` quanta of `2^k` units: `R` has at most 24 bits, all of them where the quantum is not
the smallest, the magnitude lies in the binade of the quantum, `R` is within half a quantum and even at a tie
(R53). -/
theorem roundRne_spec (s : Bool) {num den : Nat} (hd : 0 < den) (hn : num ≠ 0) :
    ∃ R k : Nat, roundRne s num den = packMag s (R * 2 ^ k) ∧
      R ≤ 2 ^ 24 ∧ (k = 0 ∨ 2 ^ 23 ≤ R) ∧
      (k = 0 ∨ 2 ^ (23 + k) * den ≤ num * scale) ∧ num * scale < 2 ^ (24 + k) * den ∧
      2 * (R * 2 ^ k * den) ≤ 2 * (num * scale) + 2 ^ k * den ∧
      2 * (num * scale) ≤ 2 * (R * 2 ^ k * den) + 2 ^ k * den ∧
      ((2 * (R * 2 ^ k * den) = 2 * (num * scale) + 2 ^ k * den ∨
        2 * (num * scale) = 2 * (R * 2 ^ k * den) + 2 ^ k * den) → R % 2 = 0) := by
  set m := num * scale / den with hm
  set k := Nat.log2 m - 23 with hk
  have hdk : 0 < den * 2 ^ k := by positivity
  obtain ⟨R, hR⟩ := Int.eq_ofNat_of_zero_le (rneInt_nonneg (num * scale) (den * 2 ^ k))
  have hspec := rneInt_spec ((num * scale : Nat) : Int) hdk
  rw [hR] at hspec
  have hmd : m * den ≤ num * scale := Nat.div_mul_le_self _ _
  have hmd' : num * scale < (m + 1) * den := by
    rw [hm, Nat.mul_comm (_ + 1)]; exact Nat.lt_mul_div_succ _ hd
  have hlow : k = 0 ∨ 2 ^ (23 + k) ≤ m := by
    rcases Nat.eq_zero_or_pos k with h | h
    · exact .inl h
    · refine .inr ?_
      have hm0 : m ≠ 0 := by rintro h0; rw [h0] at hk; simp at hk; omega
      rw [(by omega : 23 + k = Nat.log2 m)]; exact (log2_bounds hm0).1
  have hhigh : m < 2 ^ (24 + k) := by
    by_cases hm0 : m = 0
    · rw [hm0]; positivity
    · exact lt_of_lt_of_le (log2_bounds hm0).2 (Nat.pow_le_pow_right (by decide) (by omega))
  have a1 : k = 0 ∨ 2 ^ (23 + k) * den ≤ num * scale :=
    hlow.imp_right fun h => le_trans (Nat.mul_le_mul_right _ h) hmd
  have a2 : num * scale < 2 ^ (24 + k) * den := lt_of_lt_of_le hmd' (Nat.mul_le_mul_right _ hhigh)
  have c1 : 2 * (R * 2 ^ k * den) ≤ 2 * (num * scale) + 2 ^ k * den := by
    have := hspec.1; rw [← Int.ofNat_le]; push_cast at this ⊢; nlinarith
  have c2 : 2 * (num * scale) ≤ 2 * (R * 2 ^ k * den) + 2 ^ k * den := by
    have := hspec.2.1; rw [← Int.ofNat_le]; push_cast at this ⊢; nlinarith
  refine ⟨R, k, ?_, ?_, ?_, a1, a2, c1, c2, ?_⟩
  · simp only [roundRne, if_neg hn, ← hm, ← hk, hR]; rfl
  · have hlt : 2 * (R * (2 ^ k * den)) < 2 * (2 ^ 24 * (2 ^ k * den)) + 2 ^ k * den := by
      have e : 2 ^ (24 + k) * den = 2 ^ 24 * (2 ^ k * den) := by rw [pow_add, Nat.mul_assoc]
      rw [e] at a2; rw [Nat.mul_assoc R] at c1; omega
    have hp : 0 < 2 ^ k * den := by positivity
    by_contra hR'
    have := Nat.mul_le_mul_right (2 ^ k * den) (by omega : 2 ^ 24 + 1 ≤ R)
    rw [Nat.add_mul, Nat.one_mul] at this; omega
  · refine a1.imp_right fun h => ?_
    have e : 2 ^ (23 + k) * den = 2 ^ 23 * (2 ^ k * den) := by rw [pow_add, Nat.mul_assoc]
    have hp : 0 < 2 ^ k * den := by positivity
    rw [e] at h; rw [Nat.mul_assoc R] at c2
    by_contra hR'
    have := Nat.mul_le_mul_right (2 ^ k * den) (by omega : R + 1 ≤ 2 ^ 23)
    rw [Nat.add_mul, Nat.one_mul] at this; omega
  · intro h
    have : (R : Int) % 2 = 0 := by
      apply hspec.2.2
      rcases h with h | h
      · left; have h : ((2 * (R * 2 ^ k * den) : Nat) : Int) = ((2 * (num * scale) + 2 ^ k * den : Nat) : Int) := by rw [h]
        push_cast at h ⊢; linarith
      · right; have h : ((2 * (num * scale) : Nat) : Int) = ((2 * (R * 2 ^ k * den) + 2 ^ k * den : Nat) : Int) := by rw [h]
        push_cast at h ⊢; linarith
    omega

/-- The fields of a packed magnitude below the overflow bound: it is represented exactly (R53). -/
theorem packMag_spec (s : Bool) {R k : Nat} (hR : R ≤ 2 ^ 24) (hk : k = 0 ∨ 2 ^ 23 ≤ R)
    (h : R * 2 ^ k < 2 ^ 128 * scale) :
    Rules.sign (packMag s (R * 2 ^ k)) = s.toNat ∧ Rules.expo (packMag s (R * 2 ^ k)) ≤ 254 ∧
    mag (packMag s (R * 2 ^ k)) = R * 2 ^ k ∧
    (Rules.expo (packMag s (R * 2 ^ k)) = 0 ↔ R * 2 ^ k < 2 ^ 23) ∧
    (R % 2 = 0 → Rules.mant (packMag s (R * 2 ^ k)) % 2 = 0) := by
  have hs := bool_toNat_le s
  by_cases hsub : R * 2 ^ k < 2 ^ 23
  · have hk0 : k = 0 := by
      rcases hk with h | h
      · exact h
      · have := Nat.mul_le_mul h (Nat.one_le_two_pow (n := k)); omega
    subst hk0
    rw [packMag, if_neg (by omega), if_pos hsub, pack_rule s (by decide) hsub]
    refine ⟨sign_cat hs (by decide) hsub, ?_, ?_, ?_, ?_⟩
    · rw [expo_cat hs (by decide) hsub]; decide
    · rw [mag, expo_rule, expo_cat hs (by decide) hsub, if_pos rfl, mant_rule, mant_cat hs (by decide) hsub]
    · exact ⟨fun _ => hsub, fun _ => expo_cat hs (by decide) hsub⟩
    · rw [mant_cat hs (by decide) hsub]; simp
  · -- the leading bit stands at 23 + k, or at 24 + k when the rounding carried
    obtain ⟨j, r, hV, hr1, hr2, hpar⟩ : ∃ j r, R * 2 ^ k = r * 2 ^ j ∧ 2 ^ 23 ≤ r ∧ r < 2 ^ 24 ∧ (R % 2 = 0 → r % 2 = 0) := by
      rcases Nat.lt_or_ge R (2 ^ 24) with hlt | hge
      · refine ⟨k, R, rfl, ?_, hlt, id⟩
        rcases hk with h | h
        · subst h; simpa using hsub
        · exact h
      · have : R = 2 ^ 24 := by omega
        exact ⟨k + 1, 2 ^ 23, by rw [this, pow_succ]; ring, by decide, by decide, fun _ => by decide⟩
    rw [hV] at h hsub ⊢
    have hlog : Nat.log2 (r * 2 ^ j) = 23 + j := by
      rw [Nat.log2_eq_iff (by positivity)]
      constructor
      · rw [pow_add]; exact Nat.mul_le_mul_right _ hr1
      · rw [(by omega : 23 + j + 1 = 24 + j), pow_add]; exact Nat.mul_lt_mul_of_pos_right hr2 (by positivity)
    have hj : j < 254 := by
      by_contra hj
      have h1 : 2 ^ 23 * 2 ^ 254 ≤ r * 2 ^ j := Nat.mul_le_mul hr1 (Nat.pow_le_pow_right (by decide) (by omega))
      have h2 : 2 ^ 128 * scale = 2 ^ 23 * 2 ^ 254 := by norm_num [scale]
      omega
    have hm : r * 2 ^ j / 2 ^ j - 2 ^ 23 = r - 2 ^ 23 := by rw [Nat.mul_div_cancel _ (by positivity)]
    have hm' : r - 2 ^ 23 < 2 ^ 23 := by omega
    have he : 23 + j - 22 < 2 ^ 8 := by omega
    rw [packMag, if_neg (by omega), if_neg hsub, hlog, (by omega : 23 + j - 23 = j), hm, pack_rule s he hm']
    refine ⟨sign_cat hs he hm', ?_, ?_, ?_, ?_⟩
    · rw [expo_cat hs he hm']; omega
    · rw [mag, expo_rule, expo_cat hs he hm', if_neg (by omega), mant_rule, mant_cat hs he hm', (by omega : 23 + j - 22 - 1 = j), (by omega : 2 ^ 23 + (r - 2 ^ 23) = r)]
    · rw [expo_cat hs he hm']; constructor <;> intro h' <;> omega
    · intro h'; rw [mant_cat hs he hm']; have := hpar h'; omega

/-- From the overflow bound on the result is the infinity (R53). -/
theorem packMag_overflow (s : Bool) {v : Nat} (h : 2 ^ 128 * scale ≤ v) : packMag s v = Rules.cat s.toNat 255 0 := by
  rw [packMag, if_pos h, infOf_rule]

/-- A representable magnitude is below the binade of a quantum or a whole number of quanta (R50). -/
theorem mag_multiple (y : Word) (k : Nat) : mag y < 2 ^ (23 + k) ∨ 2 ^ k ∣ mag y := by
  have hm := mant_lt y
  rw [mag, expo_rule, mant_rule]
  split_ifs with h
  · left; exact lt_of_lt_of_le hm (Nat.pow_le_pow_right (by decide) (by omega))
  · rcases Nat.lt_or_ge (Rules.expo y - 1) k with hk | hk
    · left
      have h1 : (2 ^ 23 + Rules.mant y) * 2 ^ (Rules.expo y - 1) < 2 ^ 24 * 2 ^ (Rules.expo y - 1) :=
        Nat.mul_lt_mul_of_pos_right (by omega) (by positivity)
      rw [← pow_add] at h1
      exact lt_of_lt_of_le h1 (Nat.pow_le_pow_right (by decide) (by omega))
    · right; exact Dvd.dvd.mul_left (pow_dvd_pow 2 hk) _

/-- Every finite magnitude is below the overflow bound (R50). -/
theorem mag_lt (y : Word) (h : Rules.expo y ≠ 255) : mag y < 2 ^ 128 * scale := by
  have hm := mant_lt y
  have he := expo_lt y
  have hs : 2 ^ 128 * scale = 2 ^ 24 * 2 ^ 253 := by norm_num [scale]
  rw [hs, mag, expo_rule, mant_rule]
  split_ifs with h0
  · exact lt_of_lt_of_le hm (by norm_num)
  · calc (2 ^ 23 + Rules.mant y) * 2 ^ (Rules.expo y - 1) < 2 ^ 24 * 2 ^ (Rules.expo y - 1) :=
        Nat.mul_lt_mul_of_pos_right (by omega) (by positivity)
      _ ≤ 2 ^ 24 * 2 ^ 253 := Nat.mul_le_mul_left _ (Nat.pow_le_pow_right (by decide) (by omega))

end Sys2Proof.Laws
end

