-- ==== Sys2Proof/Tests/Slice0.lean ====
section
/-! SUPPORT. The model's own tests. Expected results are the spec's: command words laid out by R30 and R37, and
results of 95_test_vectors.md. Then a witness for each statement that has hypotheses. -/

namespace Sys2Proof.Tests

open Sys2Proof Sys2Proof.Machine

set_option Elab.async false

/-! ### Ill-formed commands are refused, each by name (R30) -/

theorem test_wf_op : RawCmd.wellFormed ⟨32, 0, 0, 0⟩ = false ∧ decodeRaw ⟨32, 0, 0, 0⟩ = .error .opTooWide := by
  decide

theorem test_wf_rs1 : RawCmd.wellFormed ⟨31, 4294967296, 0, 0⟩ = false ∧
    decodeRaw ⟨31, 4294967296, 0, 0⟩ = .error .rs1TooWide := by decide

theorem test_wf_rs2 : RawCmd.wellFormed ⟨0, 0, 4294967296, 0⟩ = false ∧
    decodeRaw ⟨0, 0, 4294967296, 0⟩ = .error .rs2TooWide := by decide

theorem test_wf_rs3 : RawCmd.wellFormed ⟨0, 0, 0, 4294967296⟩ = false ∧
    decodeRaw ⟨0, 0, 0, 4294967296⟩ = .error .rs3TooWide := by decide

theorem test_wf_edge : RawCmd.wellFormed ⟨31, 4294967295, 4294967295, 4294967295⟩ = true := by decide

/-! ### Every code of R37 and R39, as a command word of R30: the code's byte, then the three operands -/

theorem test_decode_fadd :
    decodeWord 0x003F800000800000017FC00000 = .ok (.fadd 0x3F800000#32 0x80000001#32 0x7FC00000#32) := by rfl

theorem test_decode_fsub :
    decodeWord 0x013F800000800000017FC00001 = .ok (.fsub 0x3F800000#32 0x80000001#32 0x7FC00001#32) := by rfl

theorem test_decode_fmul :
    decodeWord 0x023F800000800000017FC00002 = .ok (.fmul 0x3F800000#32 0x80000001#32 0x7FC00002#32) := by rfl

theorem test_decode_fmin :
    decodeWord 0x033F800000800000017FC00003 = .ok (.fmin 0x3F800000#32 0x80000001#32 0x7FC00003#32) := by rfl

theorem test_decode_fmax :
    decodeWord 0x043F800000800000017FC00004 = .ok (.fmax 0x3F800000#32 0x80000001#32 0x7FC00004#32) := by rfl

theorem test_decode_feq :
    decodeWord 0x053F800000800000017FC00005 = .ok (.feq 0x3F800000#32 0x80000001#32 0x7FC00005#32) := by rfl

theorem test_decode_flt :
    decodeWord 0x063F800000800000017FC00006 = .ok (.flt 0x3F800000#32 0x80000001#32 0x7FC00006#32) := by rfl

theorem test_decode_fle :
    decodeWord 0x073F800000800000017FC00007 = .ok (.fle 0x3F800000#32 0x80000001#32 0x7FC00007#32) := by rfl

theorem test_decode_f2ui :
    decodeWord 0x083F800000800000017FC00008 = .ok (.f2ui 0x3F800000#32 0x80000001#32 0x7FC00008#32) := by rfl

theorem test_decode_f2si :
    decodeWord 0x093F800000800000017FC00009 = .ok (.f2si 0x3F800000#32 0x80000001#32 0x7FC00009#32) := by rfl

theorem test_decode_ui2f :
    decodeWord 0x0A3F800000800000017FC0000A = .ok (.ui2f 0x3F800000#32 0x80000001#32 0x7FC0000A#32) := by rfl

theorem test_decode_si2f :
    decodeWord 0x0B3F800000800000017FC0000B = .ok (.si2f 0x3F800000#32 0x80000001#32 0x7FC0000B#32) := by rfl

theorem test_decode_fsgnj :
    decodeWord 0x0C3F800000800000017FC0000C = .ok (.fsgnj 0x3F800000#32 0x80000001#32 0x7FC0000C#32) := by rfl

theorem test_decode_fsgnjn :
    decodeWord 0x0D3F800000800000017FC0000D = .ok (.fsgnjn 0x3F800000#32 0x80000001#32 0x7FC0000D#32) := by rfl

theorem test_decode_fsgnjx :
    decodeWord 0x0E3F800000800000017FC0000E = .ok (.fsgnjx 0x3F800000#32 0x80000001#32 0x7FC0000E#32) := by rfl

theorem test_decode_fclass :
    decodeWord 0x0F3F800000800000017FC0000F = .ok (.fclass 0x3F800000#32 0x80000001#32 0x7FC0000F#32) := by rfl

theorem test_decode_flush :
    decodeWord 0x103F800000800000017FC00010 = .ok (.flush 0x3F800000#32 0x80000001#32 0x7FC00010#32) := by rfl

theorem test_decode_fdiv :
    decodeWord 0x113F800000800000017FC00011 = .ok (.fdiv 0x3F800000#32 0x80000001#32 0x7FC00011#32) := by rfl

theorem test_decode_fsqrt :
    decodeWord 0x123F800000800000017FC00012 = .ok (.fsqrt 0x3F800000#32 0x80000001#32 0x7FC00012#32) := by rfl

theorem test_decode_fma :
    decodeWord 0x133F800000800000017FC00013 = .ok (.fma 0x3F800000#32 0x80000001#32 0x7FC00013#32) := by rfl

theorem test_decode_fms :
    decodeWord 0x143F800000800000017FC00014 = .ok (.fms 0x3F800000#32 0x80000001#32 0x7FC00014#32) := by rfl

theorem test_decode_fnms :
    decodeWord 0x153F800000800000017FC00015 = .ok (.fnms 0x3F800000#32 0x80000001#32 0x7FC00015#32) := by rfl

theorem test_decode_fnma :
    decodeWord 0x163F800000800000017FC00016 = .ok (.fnma 0x3F800000#32 0x80000001#32 0x7FC00016#32) := by rfl

theorem test_decode_reserved23 :
    decodeWord 0x173F800000800000017FC00017 = .ok (.reserved23 0x3F800000#32 0x80000001#32 0x7FC00017#32) := by rfl

theorem test_decode_reserved24 :
    decodeWord 0x183F800000800000017FC00018 = .ok (.reserved24 0x3F800000#32 0x80000001#32 0x7FC00018#32) := by rfl

theorem test_decode_reserved25 :
    decodeWord 0x193F800000800000017FC00019 = .ok (.reserved25 0x3F800000#32 0x80000001#32 0x7FC00019#32) := by rfl

theorem test_decode_reserved26 :
    decodeWord 0x1A3F800000800000017FC0001A = .ok (.reserved26 0x3F800000#32 0x80000001#32 0x7FC0001A#32) := by rfl

theorem test_decode_reserved27 :
    decodeWord 0x1B3F800000800000017FC0001B = .ok (.reserved27 0x3F800000#32 0x80000001#32 0x7FC0001B#32) := by rfl

theorem test_decode_reserved28 :
    decodeWord 0x1C3F800000800000017FC0001C = .ok (.reserved28 0x3F800000#32 0x80000001#32 0x7FC0001C#32) := by rfl

theorem test_decode_reserved29 :
    decodeWord 0x1D3F800000800000017FC0001D = .ok (.reserved29 0x3F800000#32 0x80000001#32 0x7FC0001D#32) := by rfl

theorem test_decode_reserved30 :
    decodeWord 0x1E3F800000800000017FC0001E = .ok (.reserved30 0x3F800000#32 0x80000001#32 0x7FC0001E#32) := by rfl

theorem test_decode_reserved31 :
    decodeWord 0x1F3F800000800000017FC0001F = .ok (.reserved31 0x3F800000#32 0x80000001#32 0x7FC0001F#32) := by rfl

theorem test_decode_too_wide : decodeWord 0x200000000000000000000000000000000 = .error .opTooWide := by rfl

/-- A word cut to 96 bits has the code 0 (FADD) above it. -/
theorem test_table_word_cut :
    decodeTableWord 96 0x103F8000000000000000000000 = some (.fadd 0x3F800000#32 0#32 0#32) := by rfl

/-! ### One step -/

/-- The response on the port after a step. -/
def rspOf : Result → Option RspPort
  | .next s => some s.rsp
  | .fault _ => none
  | .refused _ => none

/-- The response of a step that runs `i` right after reset. -/
def answerTo (i : Instr) : Option RspPort := rspOf (step (State.reset.withPins (Pins.present i)))

/-- A response of an implemented operation. -/
def ok (d : Word) : Option RspPort := some { valid := true, data := d, illegal := false }

/-- The response to an illegal code. -/
def bad : Option RspPort := some { valid := true, data := 0x00000000#32, illegal := true }

theorem test_fadd_sticky : answerTo (.fadd 0x3F800000#32 0x33800001#32 0#32) = ok 0x3F800001#32 := by
  decide +kernel

theorem test_fadd_result_flushed : answerTo (.fadd 0x00400000#32 0x003FFFFF#32 0#32) = ok 0x00000000#32 := by
  decide +kernel

theorem test_fsub_minus_zero : answerTo (.fsub 0x80000000#32 0x00000000#32 0#32) = ok 0x80000000#32 := by
  decide +kernel

theorem test_fsub_halfway : answerTo (.fsub 0x3F800000#32 0x33800000#32 0#32) = ok 0x3F7FFFFF#32 := by
  decide +kernel

theorem test_fmul_round_up_to_normal : answerTo (.fmul 0x00800000#32 0x3F7FFFFF#32 0#32) = ok 0x00800000#32 := by
  decide +kernel

theorem test_fmul_inf_by_minus_zero : answerTo (.fmul 0x7F800000#32 0x80000000#32 0#32) = ok 0x7FC00000#32 := by
  decide +kernel

theorem test_fmin_nan_returns_subnormal : answerTo (.fmin 0x7FC00000#32 0x00000001#32 0#32) = ok 0x00000001#32 := by
  decide +kernel

theorem test_fmin_zeros : answerTo (.fmin 0x00000000#32 0x80000000#32 0#32) = ok 0x80000000#32 := by
  decide +kernel

theorem test_fmax_flushes_winner : answerTo (.fmax 0x80000001#32 0xBF800000#32 0#32) = ok 0x80000000#32 := by
  decide +kernel

theorem test_fmax_two_nans : answerTo (.fmax 0x7F800001#32 0xFFC00001#32 0#32) = ok 0x7FC00000#32 := by
  decide +kernel

theorem test_feq_zeros : answerTo (.feq 0x00000000#32 0x80000000#32 0#32) = ok 0x00000001#32 := by
  decide +kernel

theorem test_feq_subnormal_not_flushed : answerTo (.feq 0x00000000#32 0x00000001#32 0#32) = ok 0x00000000#32 := by
  decide +kernel

theorem test_flt_negative : answerTo (.flt 0xC0000000#32 0xBF800000#32 0#32) = ok 0x00000001#32 := by
  decide +kernel

theorem test_flt_nan : answerTo (.flt 0x7FC00000#32 0x7F800000#32 0#32) = ok 0x00000000#32 := by
  decide +kernel

theorem test_fle_infinities : answerTo (.fle 0x7F800000#32 0x7F800000#32 0#32) = ok 0x00000001#32 := by
  decide +kernel

theorem test_fle_subnormal_not_flushed : answerTo (.fle 0x00000001#32 0x00000000#32 0#32) = ok 0x00000000#32 := by
  decide +kernel

theorem test_f2ui_tie_to_even : answerTo (.f2ui 0x40200000#32 0x00000000#32 0#32) = ok 0x00000002#32 := by
  decide +kernel

theorem test_f2si_negative_tie : answerTo (.f2si 0xBFC00000#32 0x00000000#32 0#32) = ok 0xFFFFFFFE#32 := by
  decide +kernel

theorem test_ui2f_tie_to_even : answerTo (.ui2f 0x01000003#32 0x00000000#32 0#32) = ok 0x4B800002#32 := by
  decide +kernel

theorem test_ui2f_carry_to_2_32 : answerTo (.ui2f 0xFFFFFFFF#32 0x00000000#32 0#32) = ok 0x4F800000#32 := by
  decide +kernel

theorem test_si2f_most_negative : answerTo (.si2f 0x80000000#32 0x00000000#32 0#32) = ok 0xCF000000#32 := by
  decide +kernel

theorem test_si2f_minus_three : answerTo (.si2f 0xFFFFFFFD#32 0x00000000#32 0#32) = ok 0xC0400000#32 := by
  decide +kernel

theorem test_fsgnj_nan_payload : answerTo (.fsgnj 0xFFC12345#32 0x3F800000#32 0#32) = ok 0x7FC12345#32 := by
  decide +kernel

theorem test_fsgnj_flushes : answerTo (.fsgnj 0x00000001#32 0x80000000#32 0#32) = ok 0x80000000#32 := by
  decide +kernel

theorem test_fsgnjn_negates : answerTo (.fsgnjn 0x40A00000#32 0x3F800000#32 0#32) = ok 0xC0A00000#32 := by
  decide +kernel

theorem test_fsgnjn_flushes : answerTo (.fsgnjn 0x807FFFFF#32 0x00000000#32 0#32) = ok 0x80000000#32 := by
  decide +kernel

theorem test_fsgnjx_both_negative : answerTo (.fsgnjx 0xC0A00000#32 0xBF800000#32 0#32) = ok 0x40A00000#32 := by
  decide +kernel

theorem test_fsgnjx_flushes : answerTo (.fsgnjx 0x80000001#32 0x80000001#32 0#32) = ok 0x00000000#32 := by
  decide +kernel

theorem test_fclass_subnormal : answerTo (.fclass 0x807FFFFF#32 0x00000000#32 0#32) = ok 0x00000004#32 := by
  decide +kernel

theorem test_fclass_signaling : answerTo (.fclass 0x7FBFFFFF#32 0x00000000#32 0#32) = ok 0x00000100#32 := by
  decide +kernel

theorem test_flush_largest_subnormal : answerTo (.flush 0x807FFFFF#32 0x00000000#32 0#32) = ok 0x80000000#32 := by
  decide +kernel

theorem test_flush_nan_payload : answerTo (.flush 0xFFA5A5A5#32 0x00000000#32 0#32) = ok 0xFFA5A5A5#32 := by
  decide +kernel

/-- Outside the range the value is open and the command still answers (R80). -/
theorem test_f2ui_open :
    answerTo (.f2ui 0x4F800000#32 0#32 0#32) = ok (Config.f2iOor .f2ui 0x4F800000#32) := by rfl

/-- The first value below the range (R81). -/
theorem test_f2si_open :
    answerTo (.f2si 0xCF000001#32 0#32 0#32) = ok (Config.f2iOor .f2si 0xCF000001#32) := by rfl

theorem test_fdiv : answerTo (.fdiv 0x3F800000#32 0x7F800001#32 0xFFFFFFFF#32) = bad := by decide

theorem test_fsqrt : answerTo (.fsqrt 0x3F800000#32 0x7F800001#32 0xFFFFFFFF#32) = bad := by decide

theorem test_fma : answerTo (.fma 0x3F800000#32 0x7F800001#32 0xFFFFFFFF#32) = bad := by decide

theorem test_fms : answerTo (.fms 0x3F800000#32 0x7F800001#32 0xFFFFFFFF#32) = bad := by decide

theorem test_fnms : answerTo (.fnms 0x3F800000#32 0x7F800001#32 0xFFFFFFFF#32) = bad := by decide

theorem test_fnma : answerTo (.fnma 0x3F800000#32 0x7F800001#32 0xFFFFFFFF#32) = bad := by decide

theorem test_reserved23 : answerTo (.reserved23 0x3F800000#32 0x7F800001#32 0xFFFFFFFF#32) = bad := by decide

theorem test_reserved24 : answerTo (.reserved24 0x3F800000#32 0x7F800001#32 0xFFFFFFFF#32) = bad := by decide

theorem test_reserved25 : answerTo (.reserved25 0x3F800000#32 0x7F800001#32 0xFFFFFFFF#32) = bad := by decide

theorem test_reserved26 : answerTo (.reserved26 0x3F800000#32 0x7F800001#32 0xFFFFFFFF#32) = bad := by decide

theorem test_reserved27 : answerTo (.reserved27 0x3F800000#32 0x7F800001#32 0xFFFFFFFF#32) = bad := by decide

theorem test_reserved28 : answerTo (.reserved28 0x3F800000#32 0x7F800001#32 0xFFFFFFFF#32) = bad := by decide

theorem test_reserved29 : answerTo (.reserved29 0x3F800000#32 0x7F800001#32 0xFFFFFFFF#32) = bad := by decide

theorem test_reserved30 : answerTo (.reserved30 0x3F800000#32 0x7F800001#32 0xFFFFFFFF#32) = bad := by decide

theorem test_reserved31 : answerTo (.reserved31 0x3F800000#32 0x7F800001#32 0xFFFFFFFF#32) = bad := by decide

theorem test_fetch_word :
    rspOf (step (State.reset.withFetchWord 101 0x003F8000004000000000000000)) = ok 0x40400000#32 := by
  decide +kernel

theorem test_idle : (rspOf (step State.reset)).map RspPort.valid = some false := by decide

theorem test_ref_fdiv : refFdiv 0x3F800000#32 0x40400000#32 = 0x3EAAAAAB#32 := by decide +kernel
theorem test_ref_fsqrt : refFsqrt 0x40000000#32 = 0x3FB504F3#32 := by decide +kernel
theorem test_ref_fsqrt_subnormal : refFsqrt 0x00000001#32 = 0x1A3504F3#32 := by decide +kernel
theorem test_ref_fma : refFma 0x3F800001#32 0x3F800001#32 0xBF800002#32 = 0x00000000#32 := by decide +kernel
theorem test_ref_fms : refFms 0x40000000#32 0x40400000#32 0x3F800000#32 = 0x40A00000#32 := by decide +kernel
theorem test_ref_fnms : refFnms 0x40000000#32 0x40400000#32 0x3F800000#32 = 0xC0A00000#32 := by decide +kernel
theorem test_ref_fnma : refFnma 0x00000000#32 0x3F800000#32 0x00000000#32 = 0x80000000#32 := by decide +kernel

/-! ### Witnesses -/

/-- A state in which the host presents `i`, then one more command, and an illegal response stands on the port. -/
def busy (i : Instr) : State :=
  { pins := Pins.present i
    rsp := illegalRsp
    inputs := [Pins.present (.flush 0x00000001#32 0#32 0#32)]
    draws := 3 }

/-- FADD 1.0, 2.0. -/
def onePlusTwo : Instr := .fadd 0x3F800000#32 0x40000000#32 0#32

theorem witness_DecodeEncodeRoundTrip :
    decodeWord 0x1FFFFFFFFFFFFFFFFFFFFFFFFF = .ok (.reserved31 0xFFFFFFFF#32 0xFFFFFFFF#32 0xFFFFFFFF#32) ∧
    decodeWord 0 = .ok (.fadd 0#32 0#32 0#32) := ⟨rfl, rfl⟩

theorem witness_DecodeRefusesExactlyTooWide :
    (0x1FFFFFFFFFFFFFFFFFFFFFFFFF : Nat) < 2 ^ 101 ∧
    decodeWord 0x20000000000000000000000000 = .error .opTooWide ∧
    (2 : Nat) ^ 101 ≤ 0x20000000000000000000000000 := ⟨by decide, rfl, by decide⟩

theorem witness_StepRunsDecodedCommand :
    ((busy onePlusTwo).pins.rst = false ∧ (busy onePlusTwo).pins.cmd.valid = true) ∧
    decodeTableWord 101 0x1F400000000000000000000000 = some (.reserved31 0x40000000#32 0#32 0#32) :=
  ⟨by decide, rfl⟩

theorem witness_CodeMapIsTheTable : 23 ≤ (0b10111#5 : OpCode).toNat ∧ 23 ≤ (0b11111#5 : OpCode).toNat := by decide

/-- Under reset with a command presented. -/
theorem witness_ResetDiscardsTheCommand :
    ((busy onePlusTwo).withPins { Pins.present onePlusTwo with rst := true }).pins.rst = true ∧
    ((busy onePlusTwo).withPins { Pins.present onePlusTwo with rst := true }).pins.cmd.valid = true := by decide

theorem witness_StepAnswersByTheRules :
    ((busy (.fdiv 0#32 0#32 0#32)).pins.rst = false ∧ (busy (.fdiv 0#32 0#32 0#32)).pins.cmd.valid = true) ∧
    (State.reset.pins.rst = false ∧ State.reset.pins.cmd.valid = false) := by decide

/-- Two states that differ in the response, the host's moves and the draws. -/
theorem witness_ResponseDependsOnTheCommandAlone :
    (busy onePlusTwo).pins.cmd = (State.reset.withPins (Pins.present onePlusTwo)).pins.cmd ∧
    (busy onePlusTwo).pins.answers = true ∧ (State.reset.withPins (Pins.present onePlusTwo)).pins.answers = true ∧
    (busy onePlusTwo).rsp ≠ (State.reset.withPins (Pins.present onePlusTwo)).rsp ∧
    (∃ t, step (busy onePlusTwo) = .next t) ∧
    ∃ t, step (State.reset.withPins (Pins.present onePlusTwo)) = .next t :=
  ⟨by decide, by decide, by decide, by decide, ⟨_, rfl⟩, ⟨_, rfl⟩⟩

/-- The moves of a host that gives FDIV, then `onePlusTwo`, then FLUSH. -/
def threeMoves : List Pins :=
  [Pins.present (.fdiv 0#32 0#32 0#32), Pins.present onePlusTwo, Pins.present (.flush 0x00000001#32 0#32 0#32)]

/-- `busy onePlusTwo` is sound after the first of these moves, with the response to FDIV on the port. -/
theorem witness_StepKeepsResponseSound :
    RspSound threeMoves 1 (busy onePlusTwo) ∧ takenAt threeMoves 0 = some (CmdPort.ofInstr (.fdiv 0#32 0#32 0#32)) ∧
    ∃ t, step (busy onePlusTwo) = .next t := by
  have taken : takenAt threeMoves 0 = some (CmdPort.ofInstr (.fdiv 0#32 0#32 0#32)) := rfl
  refine ⟨⟨.inl rfl, rfl, nofun, ?_, ?_⟩, taken, _, rfl⟩
  · rintro m c ⟨⟩ h
    rw [taken] at h
    obtain rfl := Option.some.inj h
    rfl
  · rintro m ⟨⟩ h
    rw [taken] at h
    cases h

/-- The step after the host's last move takes nothing, and a reset leaves nothing taken. -/
theorem witness_StepKeepsResponseSound_silent :
    takenAt threeMoves 3 = none ∧ takenAt [{ Pins.present onePlusTwo with rst := true }] 0 = none := ⟨rfl, rfl⟩

/-- What the invariant shuts out: a valid response before the first step, and one that answers another command. -/
theorem test_unsound :
    ¬ RspSound [Pins.idle] 0 (State.reset.withRsp (RspPort.result 0#32)) ∧
    ¬ RspSound threeMoves 1 ((busy onePlusTwo).withRsp (RspPort.result 0#32)) :=
  ⟨fun h => Bool.noConfusion (h.first rfl), fun h => by
    have e := congrArg RspPort.illegal (h.answered 0 _ rfl rfl)
    cases e⟩

theorem witness_IllegalResponseCarriesIllegalData :
    ∃ t, step (busy (.fsqrt 0x40800000#32 0#32 0#32)) = .next t ∧ t.rsp.valid = true ∧ t.rsp.illegal = true :=
  ⟨_, rfl, rfl, rfl⟩

/-- Two FSGNJ commands that differ in all of `rs2` but its sign and in `rs3`, and two FDIV commands that differ in
every operand. -/
theorem witness_UnreadFieldsAreIgnored :
    (Instr.opcode (.fsgnj 1#32 0x80000000#32 0#32) = Instr.opcode (.fsgnj 1#32 0xFFFFFFFF#32 7#32) ∧
      agreeOn .whole 1#32 1#32 ∧ agreeOn .signBit 0x80000000#32 0xFFFFFFFF#32) ∧
    (Instr.opcode (.fdiv 1#32 2#32 3#32) = Instr.opcode (.fdiv 4#32 5#32 6#32) ∧
      agreeOn .ignored 1#32 4#32 ∧ agreeOn .ignored 2#32 5#32) :=
  ⟨⟨rfl, rfl, (rfl : (0x80000000#32 : Word).getLsbD 31 = (0xFFFFFFFF#32 : Word).getLsbD 31)⟩, rfl, trivial, trivial⟩

theorem witness_ExecChangesOnlyTheResponse :
    ∃ t, exec (.flush 0x00000001#32 0#32 0#32) (busy onePlusTwo) = .next t := ⟨_, rfl⟩

theorem witness_IllegalCodesAnswerIllegal :
    (.fdiv 1#32 2#32 3#32 : Instr) ∈ ([.fdiv 1#32 2#32 3#32, .fsqrt 1#32 2#32 3#32] : List Instr) := by decide

theorem witness_RneIntIsNearestEven : 0 < 2 ∧ Machine.rneInt 5 2 = 2 ∧ Machine.rneInt (-3) 2 = -2 := by decide

theorem witness_RoundRneIsTheRule : 0 < 3 ∧ Machine.roundRne true 1 3 = 0xBEAAAAAB#32 := by decide +kernel

/-- The overflow bound itself, and the largest whole number below it. -/
theorem witness_RoundRneIsNearestTiesToEven :
    (2 : ℚ) ^ 128 - 2 ^ 103 ≤ ((2 ^ 128 - 2 ^ 103 : ℕ) : ℚ) / ((1 : ℕ) : ℚ) ∧
    Machine.roundRne false (2 ^ 128 - 2 ^ 103) 1 = 0x7F800000#32 ∧
    ((2 ^ 128 - 2 ^ 103 - 1 : ℕ) : ℚ) / ((1 : ℕ) : ℚ) < (2 : ℚ) ^ 128 - 2 ^ 103 ∧
    Machine.roundRne false (2 ^ 128 - 2 ^ 103 - 1) 1 = 0x7F7FFFFF#32 ∧
    Rules.isFinite 0x7F7FFFFF#32 = true := by
  refine ⟨by norm_num, by decide +kernel, by norm_num, by decide +kernel, by decide⟩

/-- A tie: `2^24 + 1` lies midway between `2^24` and `2^24 + 2`. -/
theorem witness_RoundRneIsNearestTiesToEven_tie :
    Machine.roundRne false (2 ^ 24 + 1) 1 = 0x4B800000#32 ∧
    |(|Rules.val 0x4B800000#32| - ((2 ^ 24 + 1 : ℕ) : ℚ) / ((1 : ℕ) : ℚ))| =
      |(|Rules.val 0x4B800001#32| - ((2 ^ 24 + 1 : ℕ) : ℚ) / ((1 : ℕ) : ℚ))| ∧
    |Rules.val 0x4B800001#32| ≠ |Rules.val 0x4B800000#32| ∧ Rules.isFinite 0x4B800001#32 = true := by
  have h0 : mag 0x4B800000#32 = 2 ^ 173 := by decide +kernel
  have h1 : mag 0x4B800001#32 = 2 ^ 173 + 2 ^ 150 := by decide +kernel
  rw [Laws.abs_val_rule, Laws.abs_val_rule, h0, h1]
  refine ⟨by decide +kernel, ?_, by norm_num, by decide⟩
  norm_num [abs_of_neg, abs_of_pos]

theorem witness_RoundRneUnderflowEdges :
    0 < 2 ^ 150 ∧ ((1 : ℕ) : ℚ) / ((2 ^ 150 : ℕ) : ℚ) ≤ 2 ^ (-150 : ℤ) ∧
    Machine.roundRne true 1 (2 ^ 150) = 0x80000000#32 ∧
    (2 : ℚ) ^ (-126 : ℤ) - 2 ^ (-150 : ℤ) ≤ ((2 ^ 24 - 1 : ℕ) : ℚ) / ((2 ^ 150 : ℕ) : ℚ) ∧
    ((2 ^ 24 - 1 : ℕ) : ℚ) / ((2 ^ 150 : ℕ) : ℚ) < 2 ^ (-126 : ℤ) ∧
    Machine.roundRne false (2 ^ 24 - 1) (2 ^ 150) = 0x00800000#32 := by
  refine ⟨by positivity, by norm_num, by decide +kernel, by norm_num, by norm_num, by decide +kernel⟩

theorem witness_FlushZeroesExactlyTheSubnormals :
    answerTo (.flush 0x007FFFFF#32 0#32 0#32) = ok 0x00000000#32 ∧
    answerTo (.flush 0x00800000#32 0#32 0#32) = ok 0x00800000#32 ∧
    answerTo (.flush 0x80000000#32 0#32 0#32) = ok 0x80000000#32 ∧
    answerTo (.flush 0x80000001#32 0#32 0#32) = ok 0x80000000#32 := by decide +kernel

theorem witness_SubnormalOnlyFromMinMaxWithNan :
    Instr.resultKind (.fmin 0x7FC00000#32 0x00000001#32 0#32) = .f32 ∧
    (∃ t, exec (.fmin 0x7FC00000#32 0x00000001#32 0#32) State.reset = .next t ∧ Rules.isSub t.rsp.data = true) ∧
    Rules.isNan 0x7F800001#32 = true ∧ Rules.isSub 0x807FFFFF#32 = true :=
  ⟨rfl, ⟨_, rfl, by decide +kernel⟩, by decide, by decide⟩

theorem witness_FsubAnswersRoundedDifference :
    Rules.isFinite 0x00000001#32 = true ∧ Rules.isFinite 0xFF7FFFFF#32 = true := by decide

theorem witness_SumAndProductCommute : Rules.isNan 0x7F800001#32 = true ∧ Rules.isNan 0xFFFFFFFF#32 = true := by decide

theorem witness_ComparisonsAreConsistent :
    Rules.isNan 0x80000000#32 = false ∧ Rules.isNan 0x00000000#32 = false ∧ Rules.isNan 0xFF800000#32 = false := by
  decide

theorem witness_Ui2fExactAndFinite :
    (0x01000000#32 : Word).toNat ≤ 2 ^ 24 ∧ answerTo (.ui2f 0x01000000#32 0#32 0#32) = ok 0x4B800000#32 := by
  decide +kernel

/-- The largest integer of the round trip, and the most negative one. -/
theorem witness_SignedRoundTripIsStable :
    Rules.sint 0x7FFFFFBF#32 < 2 ^ 31 - 64 ∧ Rules.sint 0x80000000#32 < 2 ^ 31 - 64 ∧
    ¬ Rules.sint 0x7FFFFFC0#32 < 2 ^ 31 - 64 := by decide

theorem witness_RefFsqrtIsNearestRoot :
    Rules.isNan 0x7F800001#32 = true ∧ Rules.isZero 0x80000000#32 = true ∧
    (Rules.sign 0xFF800000#32 = 1 ∧ Rules.isZero 0xFF800000#32 = false) ∧
    (Rules.isFinite 0x00000001#32 = true ∧ Rules.isZero 0x00000001#32 = false ∧ Rules.sign 0x00000001#32 = 0) := by
  decide

/-- Both sides of the root: the neighbours of `2.0` for the root of `4.0`. -/
theorem witness_RefFsqrtIsNearestRoot_sides :
    Rules.isFinite 0x40800000#32 = true ∧ Rules.isZero 0x40800000#32 = false ∧ Rules.sign 0x40800000#32 = 0 ∧
    Rules.val (refFsqrt 0x40800000#32) < Rules.val 0x40000001#32 ∧
    Rules.val 0x3FFFFFFF#32 < Rules.val (refFsqrt 0x40800000#32) := by
  have h : refFsqrt 0x40800000#32 = 0x40000000#32 := by decide +kernel
  have a : scaled 0x40000000#32 = 2 ^ 150 := by decide +kernel
  have b : scaled 0x40000001#32 = 2 ^ 150 + 2 ^ 127 := by decide +kernel
  have c : scaled 0x3FFFFFFF#32 = 2 ^ 150 - 2 ^ 126 := by decide +kernel
  rw [h, Laws.val_rule, Laws.val_rule, Laws.val_rule, a, b, c]
  refine ⟨by decide, by decide, by decide, by norm_num, by norm_num⟩

theorem witness_SignalingNansDoNotSignal :
    Machine.isSnan 0x7F800001#32 = true ∧ Machine.isSnan 0xFFBFFFFF#32 = true ∧
    Machine.isSnan 0x7FC00000#32 = false := by decide

/-- The ends of the subnormals of either sign, and the patterns where the doubled one becomes a normal. -/
theorem witness_SubnormalOperandsEnterUnflushed :
    Rules.isSub 0x00000001#32 = true ∧ Rules.isSub 0x007FFFFF#32 = true ∧
    Rules.isSub 0x80000001#32 = true ∧ Rules.isSub 0x807FFFFF#32 = true ∧
    answerTo (.fadd 0x003FFFFF#32 0x003FFFFF#32 0#32) = ok 0x00000000#32 ∧
    answerTo (.fadd 0x00400000#32 0x00400000#32 0#32) = ok 0x00800000#32 ∧
    answerTo (.fadd 0x80400000#32 0x80400000#32 0#32) = ok 0x80800000#32 ∧
    answerTo (.fadd 0x80000001#32 0x80000001#32 0#32) = ok 0x80000000#32 := by decide +kernel

end Sys2Proof.Tests
end

section
/-! PROOFS. The family 10_state.md: what a command answers, whatever the state, and the statement O10. -/

namespace Sys2Proof.Proofs

open Sys2Proof Sys2Proof.Machine Sys2Proof.Laws

/-! ### What a command answers -/

/-- The data of an implemented command's response is fixed by the command before the state is seen (R10, R16). -/
theorem exec_of_implemented {i : Instr} (h : i.implemented = true) : ∃ d, ∀ s, exec i s = answer d s := by
  cases i with
  | fdiv | fsqrt | fma | fms | fnms | fnma | reserved23 | reserved24 | reserved25 | reserved26 | reserved27
  | reserved28 | reserved29 | reserved30 | reserved31 => cases h
  | _ => exact ⟨_, fun _ => rfl⟩

/-- A command no unit implements raises the illegal operation in every state (R39, R110). -/
theorem exec_of_not_implemented {i : Instr} (h : i.implemented = false) (s : State) : exec i s = raiseIllegal s := by
  cases i with
  | fdiv | fsqrt | fma | fms | fnms | fnma | reserved23 | reserved24 | reserved25 | reserved26 | reserved27
  | reserved28 | reserved29 | reserved30 | reserved31 => rfl
  | _ => cases h

/-- Every command has one response, which it puts on the response port of any state, changing nothing else (R10). -/
theorem exec_eq_withRsp (i : Instr) : ∃ r, ∀ s, exec i s = .next (s.withRsp r) := by
  cases h : i.implemented with
  | true =>
    obtain ⟨d, hd⟩ := exec_of_implemented h
    exact ⟨RspPort.result d, fun s => (hd s).trans (answer_eq d s)⟩
  | false => exact ⟨illegalRsp, fun s => (exec_of_not_implemented h s).trans (raiseIllegal_eq s)⟩

/-! ### A step that answers -/

/-- The command taken is a function of the command port (R26, R30). -/
theorem fetch_congr {s s' : State} (h : s.pins.cmd = s'.pins.cmd) : fetch s = fetch s' := by
  rw [fetch, fetch, h]

/-- When the taken command's response is `r`, the step that answers it leaves `r` on the response port: the host's next
pins do not touch it. -/
theorem rsp_of_step {s t : State} {r : RspPort} (hans : s.pins.answers = true)
    (hr : exec (fetch s) s = .next (s.withRsp r)) (hstep : step s = .next t) : t.rsp = r := by
  have hnext : step s = .next (advance (s.withRsp r)) := by rw [step_exec hans, hr, thenAdvance]
  obtain rfl : advance (s.withRsp r) = t := Host.Outcome.next.inj (hnext.symm.trans hstep)
  obtain ⟨-, -, hrsp, -⟩ := advance_fields (s.withRsp r)
  exact hrsp

/-- Settles O10: both steps take the same command, and that command has one response for every state. -/
theorem responseDependsOnTheCommandAlone : Obligations.ResponseDependsOnTheCommandAlone := by
  intro s s' t t' hcmd hans hans' hstep hstep'
  obtain ⟨r, hr⟩ := exec_eq_withRsp (fetch s)
  have hr' : exec (fetch s') s' = .next (s'.withRsp r) := by rw [← fetch_congr hcmd, hr]
  rw [rsp_of_step hans (hr s) hstep, rsp_of_step hans' hr' hstep']

end Sys2Proof.Proofs
end

section
/-! PROOFS. The family 30_encoding.md: the command word, the table of codes, the operand fields a command reads, the
illegal codes and the categories of patterns; the statements O2, O3, O14, O16 and O20. -/

namespace Sys2Proof.Proofs

open Sys2Proof Sys2Proof.Machine Sys2Proof.Laws

/-! ### The command word -/

/-- `x ‖ y` as a number: `x` stands above the `n` bits of `y`. -/
theorem toNat_append_eq_add {m n : Nat} (x : BitVec m) (y : BitVec n) :
    (x ++ y).toNat = x.toNat * 2 ^ n + y.toNat := by
  rw [BitVec.toNat_append, ← Nat.shiftLeft_add_eq_or_of_lt y.isLt, Nat.shiftLeft_eq]

/-- The command word as a number: `op` in bits 100:96, then `rs1`, `rs2` and `rs3` (R30). -/
theorem encode_toNat (i : Instr) : (encode i).toNat =
    i.opcode.toNat * 2 ^ 96 + i.rs1.toNat * 2 ^ 64 + i.rs2.toNat * 2 ^ 32 + i.rs3.toNat := by
  rw [encode, toNat_append_eq_add, toNat_append_eq_add, toNat_append_eq_add]
  omega

/-! ### The table of codes -/

/-- What R37's table says of a command: mnemonic, unit, the part of `rs1` and of `rs2` it reads, result kind and
status. -/
def columns (i : Instr) :
    String × Instr.FpUnit × Instr.FieldUse × Instr.FieldUse × Instr.ResultKind × Bool :=
  (i.mnemonic, i.unit, i.rs1Use, i.rs2Use, i.resultKind, i.implemented)

/-- The code alone fixes the columns: the operands may as well be zero (R37). -/
theorem columns_decodeCmd (op : OpCode) (a b c : Word) :
    columns (decodeCmd op a b c) = columns (decodeCmd op 0 0 0) := by
  unfold decodeCmd; split <;> rfl

/-- A row of the table is the columns of its code's command on zero operands. -/
theorem tableRow_iff {n : Nat} {mnemonic : String} {unit : Instr.FpUnit} {use1 use2 : Instr.FieldUse}
    {kind : Instr.ResultKind} {implemented : Bool} :
    TableRow n mnemonic unit use1 use2 kind implemented ↔
      columns (decodeCmd (BitVec.ofNat 5 n) 0 0 0) = (mnemonic, unit, use1, use2, kind, implemented) := by
  have split_row (i : Instr) : columns i = (mnemonic, unit, use1, use2, kind, implemented) ↔
      i.mnemonic = mnemonic ∧ i.unit = unit ∧ i.rs1Use = use1 ∧ i.rs2Use = use2 ∧ i.resultKind = kind ∧
        i.implemented = implemented := by
    simp only [columns, Prod.mk.injEq]
  simp only [TableRow, ← split_row, columns_decodeCmd, forall_const]

/-- The codes from 23 on have no unit, no result and no implementation (R39). -/
theorem reserved_columns (op : OpCode) (a b c : Word) (h : 23 ≤ op.toNat) :
    (decodeCmd op a b c).unit = .noUnit ∧ (decodeCmd op a b c).resultKind = .noResult ∧
      (decodeCmd op a b c).implemented = false := by
  have codes : ∀ op : OpCode, 23 ≤ op.toNat →
      (columns (decodeCmd op 0 0 0)).2.1 = .noUnit ∧ (columns (decodeCmd op 0 0 0)).2.2.2.2 = (.noResult, false) := by
    decide
  have hcol := codes op h
  rw [← columns_decodeCmd op a b c] at hcol
  simpa [columns] using hcol

/-- Settles O2: the fields of the word are its base-`2^32` digits, and the mnemonic is a column of the table. -/
theorem encodeLaysOutCommandWord : Obligations.EncodeLaysOutCommandWord := by
  refine ⟨encode_toNat, fun op a b c a' b' c' => ?_⟩
  have hcol : columns (decodeCmd op a b c) = columns (decodeCmd op a' b' c') := by
    rw [columns_decodeCmd op a, columns_decodeCmd op a']
  obtain ⟨-, hrs1, hrs2, hrs3⟩ := decodeCmd_fields op a b c
  exact ⟨congrArg Prod.fst hcol, hrs1, hrs2, hrs3⟩

/-- Settles O3: each row is read off at zero operands. -/
theorem codeMapIsTheTable : Obligations.CodeMapIsTheTable := by
  simp only [Obligations.CodeMapIsTheTable, tableRow_iff]
  exact ⟨rfl, rfl, rfl, rfl, rfl, rfl, rfl, rfl, rfl, rfl, rfl, rfl, rfl, rfl, rfl, rfl, rfl, rfl, rfl, rfl, rfl, rfl,
    rfl, reserved_columns⟩

/-! ### Operand fields -/

/-- FSGNJ takes the sign of `rs2` and nothing else of it (R90). -/
theorem exec_fsgnj (x y z : Word) (s : State) : exec (.fsgnj x y z) s = answer (inject (sign y) x) s := rfl

/-- FSGNJN takes the inverted sign of `rs2` and nothing else of it (R91). -/
theorem exec_fsgnjn (x y z : Word) (s : State) : exec (.fsgnjn x y z) s = answer (inject (!sign y) x) s := rfl

/-- FSGNJX takes the sign of `rs2` and nothing else of it (R92). -/
theorem exec_fsgnjx (x y z : Word) (s : State) : exec (.fsgnjx x y z) s = answer (inject (sign x ^^ sign y) x) s := rfl

/-- Other operands that agree in what the command reads do not change what it does (R38). The decoder reduces once
`Instr.opcode` has given way to a literal code. -/
theorem exec_decodeCmd_opcode (i : Instr) (a b c : Word) (s : State) (h1 : agreeOn i.rs1Use i.rs1 a)
    (h2 : agreeOn i.rs2Use i.rs2 b) : exec (decodeCmd i.opcode a b c) s = exec i s := by
  cases i with
  | fadd | fsub | fmul | fmin | fmax | feq | flt | fle =>
    obtain rfl : _ = a := h1
    obtain rfl : _ = b := h2
    dsimp only [Instr.opcode]
    rfl
  | fsgnj x y | fsgnjn x y | fsgnjx x y =>
    obtain rfl : x = a := h1
    have hsign : sign y = sign b := h2
    simp [Instr.opcode, decodeCmd, exec_fsgnj, exec_fsgnjn, exec_fsgnjx, hsign]
  | f2ui | f2si | ui2f | si2f | fclass | flush =>
    obtain rfl : _ = a := h1
    dsimp only [Instr.opcode]
    rfl
  | fdiv | fsqrt | fma | fms | fnms | fnma | reserved23 | reserved24 | reserved25 | reserved26 | reserved27
  | reserved28 | reserved29 | reserved30 | reserved31 =>
    dsimp only [Instr.opcode]
    rfl

/-- Settles O14: the second command is the first one's code decoded with the second one's operands. -/
theorem unreadFieldsAreIgnored : Obligations.UnreadFieldsAreIgnored := by
  intro i j s hcode h1 h2
  calc exec i s = exec (decodeCmd i.opcode j.rs1 j.rs2 j.rs3) s :=
        (exec_decodeCmd_opcode i j.rs1 j.rs2 j.rs3 s h1 h2).symm
    _ = exec j s := by rw [hcode, decodeCmd_self]

/-! ### The illegal codes -/

/-- The codes without an implementation are those from 17 on (R37, R39). -/
theorem not_implemented_iff (i : Instr) : i.implemented = false ↔ 17 ≤ i.opcode.toNat := by
  rw [Instr.implemented, decide_eq_false_iff_not, Nat.not_le, Nat.lt_iff_add_one_le]

/-- Settles O16: none of the fifteen is implemented, and a command that is not raises the illegal operation. -/
theorem illegalCodesAnswerIllegal : Obligations.IllegalCodesAnswerIllegal := by
  intro a b c s i hi
  have hnot : i.implemented = false := by fin_cases hi <;> rfl
  exact ⟨(not_implemented_iff i).1 hnot, (exec_of_not_implemented hnot s).trans (raiseIllegal_eq s)⟩

/-! ### Patterns -/

/-- The most significant mantissa bit, as a number (R35). -/
theorem getLsbD_22_iff (x : Word) : x.getLsbD 22 = true ↔ 2 ^ 22 ≤ Rules.mant x := by
  rw [BitVec.getLsbD, Nat.testBit_eq_decide_div_mod_eq, decide_eq_true_iff, Rules.mant]
  omega

/-- The three ranges of the exponent (R34). -/
theorem expo_cases (x : Word) :
    Rules.expo x = 0 ∨ (1 ≤ Rules.expo x ∧ Rules.expo x ≤ 254) ∨ Rules.expo x = 255 := by
  have := expo_lt x
  omega

/-- The five categories cover every pattern once (R34). -/
theorem count_categories (x : Word) :
    [isZero x, isSub x, isNorm x, isInf x, isNan x].count true = 1 := by
  rw [isZero_rule, isSub_rule, isNorm_rule, isInf_rule, isNan_rule]
  unfold Rules.isZero Rules.isSub Rules.isNorm Rules.isInf Rules.isNan
  obtain he | ⟨hlo, hhi⟩ | he := expo_cases x
  · by_cases hm : Rules.mant x = 0 <;> simp [he, hm]
  · have hne0 : Rules.expo x ≠ 0 := by omega
    have hne255 : Rules.expo x ≠ 255 := by omega
    simp [hlo, hhi, hne0, hne255]
  · by_cases hm : Rules.mant x = 0 <;> simp [he, hm]

/-- Settles O20: the rules' predicates are decisions of the stated conditions. -/
theorem patternsFallInOneCategory : Obligations.PatternsFallInOneCategory := by
  intro x
  refine ⟨count_categories x, ?_, ?_, ?_, ?_, ?_, ?_, ?_, ?_⟩
  · rw [isZero_rule, Rules.isZero, decide_eq_true_iff]
  · rw [isSub_rule, Rules.isSub, decide_eq_true_iff]
  · rw [isNorm_rule, Rules.isNorm, decide_eq_true_iff]
  · rw [isInf_rule, Rules.isInf, decide_eq_true_iff]
  · rw [isNan_rule, Rules.isNan, decide_eq_true_iff]
  · rw [isFinite_rule, Rules.isFinite, decide_eq_true_iff]
  · rw [isQnan, Bool.and_eq_true, getLsbD_22_iff]
  · rw [isSnan, Bool.and_eq_true, Bool.not_eq_true', ← Bool.not_eq_true, getLsbD_22_iff, not_le]

end Sys2Proof.Proofs
end

section
/-! PROOFS. The family 40_flush_and_numeric_base.md: the machine's rounding in whole numbers against the rules'
rational one, and the FLUSH command; the statements O21, O22 and O25. -/

namespace Sys2Proof.Proofs

open Sys2Proof Sys2Proof.Machine Sys2Proof.Laws

/-! ### Rounding to an integer -/

/-- Settles O21: the floor is the quotient and what is left of it the remainder over `den`, so both sides compare the
same remainder with half of `den`. -/
theorem rneIntIsNearestEven : Obligations.RneIntIsNearestEven := by
  intro num den hd
  have hden : (0 : ℚ) < den := Nat.cast_pos.2 hd
  have hfloor : ⌊(num : ℚ) / den⌋ = num / (den : ℤ) := Rat.floor_intCast_div_natCast num den
  have hrest : (num : ℚ) / den - ((num / den : ℤ) : ℚ) = ((num % den : ℤ) : ℚ) / den := by
    rw [← hfloor, Int.self_sub_floor, Int.fract_div_intCast_eq_div_intCast_mod]
  have hbelow : ((num % den : ℤ) : ℚ) / den < 1 / 2 ↔ 2 * (num % den) < den := by
    rw [div_lt_div_iff₀ hden two_pos, one_mul, mul_comm]
    exact_mod_cast Iff.rfl
  have habove : 1 / 2 < ((num % den : ℤ) : ℚ) / den ↔ den < 2 * (num % den) := by
    rw [div_lt_div_iff₀ two_pos hden, one_mul, mul_comm]
    exact_mod_cast Iff.rfl
  simp only [Rules.rneInt, rneInt, hfloor, hrest, hbelow, habove]

/-! ### The quantum -/

/-- Dividing by `2^n` takes `n` off `floor(log2(x))`. -/
theorem int_log_div_two_pow {x : ℚ} (hx : 0 < x) (n : ℕ) : Int.log 2 (x / 2 ^ n) = Int.log 2 x - n := by
  have hpos : (0 : ℚ) < 2 ^ n := by positivity
  have hle : (2 : ℚ) ^ Int.log 2 x ≤ x := by exact_mod_cast Int.zpow_log_le_self one_lt_two hx
  have hlt : x < (2 : ℚ) ^ (Int.log 2 x + 1) := by exact_mod_cast Int.lt_zpow_succ_log_self one_lt_two x
  apply int_log_eq
  · rw [zpow_sub₀ two_ne_zero, zpow_natCast]
    exact (div_le_div_iff_of_pos_right hpos).2 hle
  · rw [sub_add_eq_add_sub, zpow_sub₀ two_ne_zero, zpow_natCast]
    exact (div_lt_div_iff_of_pos_right hpos).2 hlt

/-- A magnitude in units of `1 / scale`. -/
theorem div_eq_units (num den : ℕ) : (num : ℚ) / den = ((num * scale : ℕ) : ℚ) / den / 2 ^ 149 := by
  rw [Nat.cast_mul, scale_cast]
  field_simp

/-- R53's `quantum = 2^(max(E, -126) - 23)` is `2^k` units, for the `k` of the machine's `roundRne`. -/
theorem quantum_exponent {num den : ℕ} (hd : 0 < den) (hn : num ≠ 0) :
    max (Int.log 2 ((num : ℚ) / den)) (-126) - 23 = ((Nat.log2 (num * scale / den) - 23 : ℕ) : ℤ) - 149 := by
  have hnum : 0 < num * scale := Nat.mul_pos (Nat.pos_of_ne_zero hn) scale_pos
  have hx : (0 : ℚ) < ((num * scale : ℕ) : ℚ) / den := div_pos (Nat.cast_pos.2 hnum) (Nat.cast_pos.2 hd)
  have hfloor : ⌊((num * scale : ℕ) : ℚ) / den⌋₊ = num * scale / den := Nat.floor_div_eq_div _ _
  rw [div_eq_units, int_log_div_two_pow hx]
  generalize ((num * scale : ℕ) : ℚ) / den = x at hx hfloor
  rw [← hfloor, Nat.log2_eq_log_two]
  rcases le_or_gt 1 x with hone | hone
  · rw [Int.log_of_one_le_right 2 hone]
    omega
  · have hneg : Int.log 2 x < 0 := (Int.lt_zpow_iff_log_lt one_lt_two hx).1 (by simpa using hone)
    rw [Nat.floor_eq_zero.2 hone, Nat.log_zero_right]
    omega

/-- The rules' number of quanta is the machine's. -/
theorem rneInt_quanta {den : ℕ} (hd : 0 < den) (num k : ℕ) :
    Rules.rneInt ((num : ℚ) / den / 2 ^ ((k : ℤ) - 149)) = rneInt ((num * scale : ℕ) : ℤ) (den * 2 ^ k) := by
  rw [rneIntIsNearestEven _ _ (Nat.mul_pos hd (Nat.two_pow_pos k)), div_eq_units, zpow_sub₀ two_ne_zero, zpow_natCast]
  congr 1
  push_cast
  field_simp
  norm_num

/-- The rules' rounded magnitude is the machine's whole number of units. -/
theorem rounded_value {den : ℕ} (hd : 0 < den) (num k : ℕ) :
    (Rules.rneInt ((num : ℚ) / den / 2 ^ ((k : ℤ) - 149)) : ℚ) * 2 ^ ((k : ℤ) - 149) =
      (((rneInt ((num * scale : ℕ) : ℤ) (den * 2 ^ k)).toNat * 2 ^ k : ℕ) : ℚ) / 2 ^ 149 := by
  obtain ⟨R, hR⟩ := Int.eq_ofNat_of_zero_le (rneInt_nonneg (num * scale) (den * 2 ^ k))
  rw [rneInt_quanta hd, hR, Int.toNat_natCast, Int.cast_natCast, zpow_sub₀ two_ne_zero, zpow_natCast, ← mul_div_assoc]
  push_cast
  rfl

/-! ### Packing -/

/-- R53 from `if v >= 2^128` on: the pattern of the rounded magnitude `v`. -/
def packRule (s : ℕ) (v : ℚ) : Word :=
  if 2 ^ (128 : ℤ) ≤ v then Rules.cat s 255 0
  else if v < 2 ^ (-126 : ℤ) then Rules.cat s 0 ⌊v / 2 ^ (-149 : ℤ)⌋.toNat
  else
    Rules.cat s (Int.log 2 v + 127).toNat ⌊(v / 2 ^ Int.log 2 v - 1) * 2 ^ 23⌋.toNat

/-- The rule rounds to a whole number of quanta and packs it. -/
theorem roundRne_eq_packRule (s : ℕ) {q : ℚ} (hq : q ≠ 0) {e : ℤ} (he : max (Int.log 2 q) (-126) - 23 = e) :
    Rules.roundRne s q = packRule s (Rules.rneInt (q / 2 ^ e) * 2 ^ e) := by
  subst he
  rw [Rules.roundRne, if_neg hq]
  rfl

/-- A whole number of units from `2^23` on has its leading bit at `log2`, and the 23 bits below it are the mantissa. -/
theorem mantissa_of_units {v : ℕ} (hv : 2 ^ 23 ≤ v) :
    ⌊((v : ℚ) / 2 ^ 149 / 2 ^ ((Nat.log2 v : ℤ) - 149) - 1) * 2 ^ 23⌋.toNat = v / 2 ^ (Nat.log2 v - 23) - 2 ^ 23 := by
  obtain ⟨j, hj⟩ : ∃ j, Nat.log2 v = j + 23 :=
    Nat.exists_eq_add_of_le' ((Nat.le_log2 (by omega)).2 hv)
  have hshift : ((v : ℚ) / 2 ^ 149 / 2 ^ (((j + 23 : ℕ) : ℤ) - 149) - 1) * 2 ^ 23 =
      (v : ℚ) / ((2 ^ j : ℕ) : ℚ) - ((2 ^ 23 : ℕ) : ℚ) := by
    rw [zpow_sub₀ two_ne_zero, zpow_natCast]
    push_cast
    field_simp
    ring
  rw [hj, hshift, Int.floor_sub_natCast, Rat.floor_natCast_div_natCast, Nat.add_sub_cancel]
  omega

/-- From `2^23` units up to the overflow bound the exponent and the mantissa fit their fields. -/
theorem fields_of_units {v : ℕ} (hv : 2 ^ 23 ≤ v) (hinf : v < 2 ^ 128 * scale) :
    Nat.log2 v - 22 < 2 ^ 8 ∧ v / 2 ^ (Nat.log2 v - 23) - 2 ^ 23 < 2 ^ 23 := by
  have hv0 : v ≠ 0 := by omega
  have hlow : 23 ≤ Nat.log2 v := (Nat.le_log2 hv0).2 hv
  have hhigh : Nat.log2 v < 277 := (Nat.log2_lt hv0).2 (by rw [scale] at hinf; omega)
  have hquot : v / 2 ^ (Nat.log2 v - 23) < 2 ^ 24 := by
    rw [Nat.div_lt_iff_lt_mul (Nat.two_pow_pos _), ← pow_add, (by omega : 24 + (Nat.log2 v - 23) = Nat.log2 v + 1)]
    exact (log2_bounds hv0).2
  omega

/-- The machine packs a whole number of units as the rule packs its value (R53). -/
theorem packMag_eq_packRule (s : Bool) (v : ℕ) : packMag s v = packRule s.toNat ((v : ℚ) / 2 ^ 149) := by
  have hover : 2 ^ (128 : ℤ) ≤ (v : ℚ) / 2 ^ 149 ↔ 2 ^ 128 * scale ≤ v := by
    rw [le_div_iff₀ (by positivity), ← scale_cast]
    exact_mod_cast Iff.rfl
  have hsub : (v : ℚ) / 2 ^ 149 < 2 ^ (-126 : ℤ) ↔ v < 2 ^ 23 := by
    rw [div_lt_iff₀ (by positivity), (by norm_num : (2 : ℚ) ^ (-126 : ℤ) * 2 ^ 149 = ((2 ^ 23 : ℕ) : ℚ)), Nat.cast_lt]
  simp only [packMag, packRule, hover, hsub]
  split_ifs with hinf hlow
  · exact infOf_rule s
  · have hmant : (v : ℚ) / 2 ^ 149 / 2 ^ (-149 : ℤ) = v := by
      rw [zpow_neg, div_inv_eq_mul]
      exact div_mul_cancel₀ _ (by positivity)
    rw [hmant, Int.floor_natCast, Int.toNat_natCast, pack_rule s (by decide) hlow]
  · have hv : 2 ^ 23 ≤ v := not_lt.1 hlow
    obtain ⟨hexpo, hmant⟩ := fields_of_units hv (not_le.1 hinf)
    rw [int_log_units (by omega), mantissa_of_units hv, pack_rule s hexpo hmant]
    congr 1
    omega

/-- Settles O22: both round to the same number of quanta, which both pack as the same pattern. -/
theorem roundRneIsTheRule : Obligations.RoundRneIsTheRule := by
  intro s num den hd
  rcases Nat.eq_zero_or_pos num with rfl | hpos
  · rw [roundRne, if_pos rfl, Rules.roundRne, if_pos (by simp), zeroOf_rule]
  · have hn : num ≠ 0 := hpos.ne'
    have hq : (num : ℚ) / den ≠ 0 := div_ne_zero (Nat.cast_ne_zero.2 hn) (Nat.cast_ne_zero.2 hd.ne')
    rw [roundRne_eq_packRule _ hq (quantum_exponent hd hn), rounded_value hd, ← packMag_eq_packRule, roundRne, if_neg hn]

/-! ### The flush -/

/-- The subnormals are two ranges of patterns (R54). -/
theorem isSub_iff (x : Word) : Rules.isSub x = true ↔
    (1 ≤ x.toNat ∧ x.toNat ≤ 0x007FFFFF) ∨ (0x80000001 ≤ x.toNat ∧ x.toNat ≤ 0x807FFFFF) := by
  have hx := toNat_lt x
  rw [Rules.isSub, decide_eq_true_iff, Rules.expo, Rules.mant]
  omega

/-- FLUSH answers the flush of `rs1` (R56). -/
theorem exec_flush (a b c : Word) (s : State) : exec (.flush a b c) s = answer (flush a) s := rfl

/-- Settles O25: a subnormal's range fixes the sign of the zero it gives. -/
theorem flushZeroesExactlyTheSubnormals : Obligations.FlushZeroesExactlyTheSubnormals := by
  intro a b c s
  refine ⟨flush a, (exec_flush a b c s).trans (answer_eq _ s), ?_⟩
  rw [flush_rule, Rules.flush]
  by_cases hpos : 0x00000001 ≤ a.toNat ∧ a.toNat ≤ 0x007FFFFF
  · have hsign : Rules.sign a = 0 := by rw [Rules.sign]; omega
    rw [if_pos hpos, if_pos ((isSub_iff a).2 (.inl hpos)), hsign]
    rfl
  · rw [if_neg hpos]
    by_cases hneg : 0x80000001 ≤ a.toNat ∧ a.toNat ≤ 0x807FFFFF
    · have hsign : Rules.sign a = 1 := by rw [Rules.sign]; omega
      rw [if_pos hneg, if_pos ((isSub_iff a).2 (.inr hneg)), hsign]
      rfl
    · rw [if_neg hneg, if_neg fun hsub => ((isSub_iff a).1 hsub).elim hpos hneg]

end Sys2Proof.Proofs
end

section
/-! PROOFS. The family 41_adder.md: the machine's sum in units of `1 / scale` against the rules' rational one; the
statements O28 and O29. -/

namespace Sys2Proof.Proofs

open Sys2Proof Sys2Proof.Machine Sys2Proof.Laws

/-! ### The native sum -/

/-- The exact sum is the machine's whole number of units (R50). -/
theorem val_add_val (a b : Word) : Rules.val a + Rules.val b = ((scaled a + scaled b : ℤ) : ℚ) / 2 ^ 149 := by
  rw [val_rule, val_rule, Int.cast_add, add_div]

/-- A unit is positive, so the exact sum is zero when its units are. -/
theorem val_add_val_eq_zero_iff (a b : Word) : Rules.val a + Rules.val b = 0 ↔ scaled a + scaled b = 0 := by
  rw [val_add_val, div_eq_zero_iff, or_iff_left (by positivity), Int.cast_eq_zero]

/-- A unit is positive, so the exact sum is positive when its units are. -/
theorem val_add_val_pos_iff (a b : Word) : 0 < Rules.val a + Rules.val b ↔ 0 < scaled a + scaled b := by
  rw [val_add_val, div_pos_iff_of_pos_right (by positivity), Int.cast_pos]

/-- The machine rounds the magnitude of the exact sum as the rule does (R53). -/
theorem roundRne_sum (s : Bool) (a b : Word) :
    roundRne s (scaled a + scaled b).natAbs scale = Rules.roundRne s.toNat |Rules.val a + Rules.val b| := by
  have hunit : (0 : ℚ) < 2 ^ 149 := by positivity
  rw [roundRneIsTheRule s _ _ scale_pos, scale_cast, Nat.cast_natAbs, Int.cast_abs, val_add_val, abs_div,
    abs_of_pos hunit]

/-- The machine's native sum is the rule's: the branches are the same, and the sign of the exact sum says which of the
last three is taken (R62). -/
theorem addNative_rule (a b : Word) : addNative a b = Rules.addNative a b := by
  simp only [addNative, Rules.addNative, isNan_rule, isInf_rule, sign_eq_iff, roundRne_sum, ← val_add_val_eq_zero_iff,
    ← val_add_val_pos_iff]
  rcases lt_trichotomy (Rules.val a + Rules.val b) 0 with hneg | hzero | hpos
  · simp only [hneg.ne, hneg.not_gt, if_false, abs_of_neg hneg]
    rfl
  · simp only [hzero, if_true, zeroOf_rule, ← sign_rule]
    rfl
  · simp only [hpos.ne', hpos, if_false, if_true, abs_of_pos hpos]
    rfl

/-! ### The commands -/

/-- FADD answers the flushed native sum (R60). -/
theorem exec_fadd (a b c : Word) (s : State) : exec (.fadd a b c) s = answer (flush (addNative a b)) s := rfl

/-- FSUB answers the flushed native sum with the second operand's sign inverted (R61). -/
theorem exec_fsub (a b c : Word) (s : State) : exec (.fsub a b c) s = answer (flush (addNative a (neg b))) s := rfl

/-- Settles O28: both sums are the same exact number of units, rounded once. -/
theorem faddAnswersRoundedSum : Obligations.FaddAnswersRoundedSum := by
  intro a b c s
  rw [exec_fadd, answer_eq, flush_rule, addNative_rule]

/-! ### A value minus itself -/

/-- Inverting the sign bit negates the value (R50). -/
theorem val_neg (x : Word) : Rules.val (Rules.neg x) = -Rules.val x := by
  have hsign : (-1 : ℚ) ^ (1 - Rules.sign x) = -(-1) ^ Rules.sign x := by
    rcases Nat.le_one_iff_eq_zero_or_eq_one.1 (sign_le_one x) with hs | hs <;> norm_num [hs]
  rw [Rules.val, sign_neg, expo_neg, mant_neg, hsign, neg_mul, Rules.val]

/-- A pattern and its negation differ in sign. -/
theorem sign_ne_sign_neg (x : Word) : Rules.sign x ≠ Rules.sign (Rules.neg x) := by
  rw [sign_neg]
  omega

/-- A finite pattern is neither a NaN nor an infinity (R34). -/
theorem not_nan_not_inf_of_expo {x : Word} (h : Rules.expo x ≠ 255) : Rules.isNan x = false ∧ Rules.isInf x = false := by
  simp [Rules.isNan, Rules.isInf, h]

/-- `x + neg(x)` is plus zero for every finite `x`, the zeros included: the exact sum is zero and the signs differ (R62). -/
theorem addNative_neg_self {x : Word} (h : Rules.isFinite x = true) : Rules.addNative x (Rules.neg x) = 0x00000000#32 := by
  have hexpo : Rules.expo x ≠ 255 := of_decide_eq_true h
  obtain ⟨hnan, hinf⟩ := not_nan_not_inf_of_expo hexpo
  obtain ⟨hnan', hinf'⟩ := not_nan_not_inf_of_expo (x := Rules.neg x) (by rwa [expo_neg])
  simp [Rules.addNative, hnan, hinf, hnan', hinf', val_neg, sign_ne_sign_neg]

/-- Settles O29: FSUB is the sum with the negation, and a finite value's sum with its own negation is plus zero, which
the flush keeps. -/
theorem fsubAnswersRoundedDifference : Obligations.FsubAnswersRoundedDifference := by
  have hsub (a b c : Word) (s : State) : exec (.fsub a b c) s =
      .next (s.withRsp (RspPort.result (Rules.flush (Rules.addNative a (Rules.neg b))))) := by
    rw [exec_fsub, answer_eq, flush_rule, addNative_rule, neg_rule]
  refine ⟨hsub, fun x c s hx => ?_⟩
  rw [hsub, addNative_neg_self hx]
  rfl

end Sys2Proof.Proofs
end

section
/-! PROOFS. The family 42_multiplier.md: the machine's product in units of `1 / scale²` against the rules' rational one;
the statement O30. -/

namespace Sys2Proof.Proofs

open Sys2Proof Sys2Proof.Machine Sys2Proof.Laws

/-! ### The native product -/

/-- The exact magnitude of the product is the machine's whole number of units of `1 / scale²` (R50). -/
theorem abs_val_mul_abs_val (a b : Word) :
    |Rules.val a| * |Rules.val b| = ((mag a * mag b : ℕ) : ℚ) / ((scale * scale : ℕ) : ℚ) := by
  rw [abs_val_rule, abs_val_rule, div_mul_div_comm, Nat.cast_mul, Nat.cast_mul, scale_cast]

/-- The machine rounds the exact product as the rule does (R53). -/
theorem roundRne_product (s : Bool) (a b : Word) :
    roundRne s (mag a * mag b) (scale * scale) = Rules.roundRne s.toNat (|Rules.val a| * |Rules.val b|) := by
  rw [roundRneIsTheRule s _ _ (Nat.mul_pos scale_pos scale_pos), abs_val_mul_abs_val]

/-- The machine's native product is the rule's: the branches are the same, and each answers the same pattern (R66). -/
theorem mulNative_rule (a b : Word) : mulNative a b = Rules.mulNative a b := by
  simp only [mulNative, Rules.mulNative, generatedNan, isNan_rule, isInf_rule, isZero_rule, infOf_rule, roundRne_product,
    xor_rule]

/-! ### The command -/

/-- FMUL answers the flushed native product (R65). -/
theorem exec_fmul (a b c : Word) (s : State) : exec (.fmul a b c) s = answer (flush (mulNative a b)) s := rfl

/-- Settles O30: both products are the same exact number of units, rounded once. -/
theorem fmulAnswersRoundedProduct : Obligations.FmulAnswersRoundedProduct := by
  intro a b c s
  rw [exec_fmul, answer_eq, flush_rule, mulNative_rule]

end Sys2Proof.Proofs
end

section
/-! PROOFS. The family 43_comparator.md: the machine's comparator against the rules' order of rational values; the
statements O32 and O34. -/

namespace Sys2Proof.Proofs

open Sys2Proof Sys2Proof.Machine Sys2Proof.Laws

/-! ### Minimum and maximum -/

/-- The two zeros of different sign, in either order (R70 and R71, case 3). -/
theorem mixedZeros_iff (a b : Word) : mixedZeros a b = true ↔
    a = 0x80000000#32 ∧ b = 0x00000000#32 ∨ a = 0x00000000#32 ∧ b = 0x80000000#32 := by
  simp only [mixedZeros, Bool.or_eq_true, Bool.and_eq_true, beq_iff_eq]

/-- The machine's minimum is the rule's: the four cases are the same, and each answers the same pattern (R70). -/
theorem fmin_rule (a b : Word) : fmin a b = Rules.fmin a b := by
  simp only [fmin, Rules.fmin, generatedNan, isNan_rule, mixedZeros_iff, less_rule, flush_rule]

/-- The machine's maximum is the rule's: the four cases are the same, and each answers the same pattern (R71). -/
theorem fmax_rule (a b : Word) : fmax a b = Rules.fmax a b := by
  simp only [fmax, Rules.fmax, generatedNan, isNan_rule, mixedZeros_iff, greater_rule, flush_rule]

/-- FMIN answers the minimum as it is: no flush follows the four cases (R70). -/
theorem exec_fmin (a b c : Word) (s : State) : exec (.fmin a b c) s = answer (fmin a b) s := rfl

/-- FMAX answers the maximum as it is: no flush follows the four cases (R71). -/
theorem exec_fmax (a b c : Word) (s : State) : exec (.fmax a b c) s = answer (fmax a b) s := rfl

/-- Settles O32: the machine tries the rules' four cases in the rules' order. -/
theorem fminFmaxAnswerByPriority : Obligations.FminFmaxAnswerByPriority := by
  intro a b c s
  constructor
  · rw [exec_fmin, answer_eq, fmin_rule]
  · rw [exec_fmax, answer_eq, fmax_rule]

/-! ### Comparisons -/

/-- A comparison's truth value is masked by the absence of a NaN, where the rules test for a NaN first
(R72, R73, R74). -/
theorem ordered_eq_ite (a b : Word) (holds : Bool) : ordered a b holds =
    if Rules.isNan a || Rules.isNan b then 0x00000000#32 else if holds then 0x00000001#32 else 0x00000000#32 := by
  rw [ordered, truth, isNan_rule, isNan_rule]
  cases Rules.isNan a || Rules.isNan b <;> rfl

/-- FEQ answers whether neither operand is the less, both being ordered (R72). -/
theorem exec_feq (a b c : Word) (s : State) :
    exec (.feq a b c) s = answer (ordered a b (!less a b && !greater a b)) s := rfl

/-- FLT answers whether the first operand is the less, both being ordered (R73). -/
theorem exec_flt (a b c : Word) (s : State) : exec (.flt a b c) s = answer (ordered a b (less a b)) s := rfl

/-- FLE answers whether the first operand is not the greater, both being ordered (R74). -/
theorem exec_fle (a b c : Word) (s : State) : exec (.fle a b c) s = answer (ordered a b (!greater a b)) s := rfl

/-- Settles O34: the machine's order of scaled values is the rules' order of rational ones, and a NaN masks it. -/
theorem comparisonsAnswerByTheOrder : Obligations.ComparisonsAnswerByTheOrder := by
  intro a b c s
  refine ⟨?_, ?_, ?_⟩
  · rw [exec_feq, answer_eq, ordered_eq_ite, less_rule, greater_rule, Rules.feq]
  · rw [exec_flt, answer_eq, ordered_eq_ite, less_rule, Rules.flt]
  · rw [exec_fle, answer_eq, ordered_eq_ite, greater_rule, Rules.fle]

end Sys2Proof.Proofs
end

section
/-! PROOFS. The family 44_converters.md: the machine's conversions in whole numbers against the rules' rational ones; the
statements O36, O37, O38 and O40. -/

namespace Sys2Proof.Proofs

open Sys2Proof Sys2Proof.Machine Sys2Proof.Laws

/-! ### Float to integer -/

/-- `to_bits32(z)` is the pattern `z mod 2^32` (00_scope.md section 5). -/
theorem toBits32_rule (z : ℤ) : toBits32 z = Rules.toBits32 z := by
  apply BitVec.eq_of_toNat_eq
  rw [toBits32, Rules.toBits32, BitVec.toNat_ofInt, BitVec.toNat_ofNat]
  push_cast
  omega

/-- The nearest integer of the value is the nearest integer of its whole number of units over `scale` (R50, R51). -/
theorem rneInt_scaled (x : Word) : rneInt (scaled x) scale = Rules.rneInt (Rules.val x) := by
  rw [rneIntIsNearestEven _ _ scale_pos, val_rule, scale_cast]

/-- The machine's conversion to the unsigned range is the rule's: the branches are the same, and each answers the same
pattern (R80). -/
theorem floatToInt_f2ui (x : Word) : floatToInt .f2ui 0 (2 ^ 32 - 1) x = Rules.f2ui x := by
  simp only [floatToInt, Rules.f2ui, isNan_rule, isInf_rule, rneInt_scaled, toBits32_rule]

/-- The machine's conversion to the signed range is the rule's: the branches are the same, and each answers the same
pattern (R81). -/
theorem floatToInt_f2si (x : Word) : floatToInt .f2si (-2 ^ 31) (2 ^ 31 - 1) x = Rules.f2si x := by
  simp only [floatToInt, Rules.f2si, isNan_rule, isInf_rule, rneInt_scaled, toBits32_rule]

/-- F2UI answers the nearest integer kept to the unsigned range (R80). -/
theorem exec_f2ui (x b c : Word) (s : State) :
    exec (.f2ui x b c) s = answer (floatToInt .f2ui 0 (2 ^ 32 - 1) x) s := rfl

/-- F2SI answers the nearest integer kept to the signed range (R81). -/
theorem exec_f2si (x b c : Word) (s : State) :
    exec (.f2si x b c) s = answer (floatToInt .f2si (-2 ^ 31) (2 ^ 31 - 1) x) s := rfl

/-- Settles O36: both sides round the same exact value to an integer and test it against the unsigned range. -/
theorem f2uiAnswersNearestInteger : Obligations.F2uiAnswersNearestInteger := by
  intro x b c s
  rw [exec_f2ui, answer_eq, floatToInt_f2ui]

/-- Settles O37: both sides round the same exact value to an integer and test it against the signed range. -/
theorem f2siAnswersNearestInteger : Obligations.F2siAnswersNearestInteger := by
  intro x b c s
  rw [exec_f2si, answer_eq, floatToInt_f2si]

/-! ### Integer to float -/

/-- The machine rounds an integer's magnitude under its sign as the rule does (R53). -/
theorem intToFloat_rule (n : ℤ) :
    intToFloat n = Rules.flush (Rules.roundRne (decide (n < 0)).toNat |(n : ℚ)|) := by
  rw [intToFloat, flush_rule, roundRneIsTheRule _ _ _ Nat.one_pos, Nat.cast_one, div_one, Nat.cast_natAbs, Int.cast_abs]

/-- An integer that is not negative is rounded with sign 0 (R82, R83). -/
theorem intToFloat_of_nonneg {n : ℤ} (h : 0 ≤ n) : intToFloat n = Rules.flush (Rules.roundRne 0 n) := by
  rw [intToFloat_rule, decide_eq_false h.not_gt, abs_of_nonneg (Int.cast_nonneg h), Bool.toNat_false]

/-- A negative integer's magnitude is rounded with sign 1 (R83). -/
theorem intToFloat_of_neg {n : ℤ} (h : n < 0) : intToFloat n = Rules.flush (Rules.roundRne 1 (-n)) := by
  rw [intToFloat_rule, decide_eq_true h, abs_of_neg (Int.cast_lt_zero.2 h), Bool.toNat_true]

/-- UI2F answers the conversion of the unsigned integer (R82). -/
theorem exec_ui2f (x b c : Word) (s : State) : exec (.ui2f x b c) s = answer (intToFloat (uint x)) s := rfl

/-- SI2F answers the conversion of the signed integer (R83). -/
theorem exec_si2f (x b c : Word) (s : State) : exec (.si2f x b c) s = answer (intToFloat (sint x)) s := rfl

/-- Settles O38: an unsigned integer is never negative, so its sign is always 0. -/
theorem ui2fAnswersRoundedInteger : Obligations.Ui2fAnswersRoundedInteger := by
  intro x b c s
  rw [exec_ui2f, answer_eq, intToFloat_of_nonneg (Int.natCast_nonneg _)]
  rfl

/-- Settles O40: the integer's sign says which of the rule's two cases is taken, and the machine rounds the same
magnitude under the same sign in both. -/
theorem si2fAnswersRoundedInteger : Obligations.Si2fAnswersRoundedInteger := by
  intro x b c s
  rw [exec_si2f, answer_eq, sint_rule, Rules.si2f]
  split_ifs with hsign
  · rw [intToFloat_of_nonneg hsign]
  · rw [intToFloat_of_neg (not_le.1 hsign)]

end Sys2Proof.Proofs
end

section
/-! PROOFS. The family 45_sign_injection.md: the sign selector's three bits against the rules' sign fields; the statement
O42. -/

namespace Sys2Proof.Proofs

open Sys2Proof Sys2Proof.Machine Sys2Proof.Laws

/-- The inverted sign bit, as the rules count it (R91). -/
theorem not_sign_toNat (x : Word) : (!sign x).toNat = 1 - Rules.sign x := by
  rw [sign_rule]
  cases sign x <;> rfl

/-- The sign of `rs2` on the magnitude of `rs1` is the rule's FSGNJ (R90). -/
theorem inject_sign_rule (a b : Word) : inject (sign b) a = Rules.fsgnj a b := by
  rw [inject_rule, ← sign_rule, Rules.fsgnj]

/-- The inverted sign of `rs2` on the magnitude of `rs1` is the rule's FSGNJN (R91). -/
theorem inject_not_sign_rule (a b : Word) : inject (!sign b) a = Rules.fsgnjn a b := by
  rw [inject_rule, not_sign_toNat, Rules.fsgnjn]

/-- The two signs' exclusive or on the magnitude of `rs1` is the rule's FSGNJX (R92). -/
theorem inject_xor_sign_rule (a b : Word) : inject (sign a ^^ sign b) a = Rules.fsgnjx a b := by
  rw [inject_rule, xor_rule, Rules.fsgnjx]

/-- Settles O42: the sign selector picks the bit each rule names, and its flush is the rule's flush. -/
theorem signInjectionAnswers : Obligations.SignInjectionAnswers := by
  intro a b c s
  refine ⟨?fsgnj, ?fsgnjn, ?fsgnjx⟩
  case fsgnj => rw [exec_fsgnj, answer_eq, inject_sign_rule]
  case fsgnjn => rw [exec_fsgnjn, answer_eq, inject_not_sign_rule]
  case fsgnjx => rw [exec_fsgnjx, answer_eq, inject_xor_sign_rule]

end Sys2Proof.Proofs
end

section
/-! PROOFS. The family 46_classifier.md: the machine's classifier, category first and then sign or quiet bit, against
the rules' table of ten rows; the statement O44. -/

namespace Sys2Proof.Proofs

open Sys2Proof Sys2Proof.Machine Sys2Proof.Laws

/-! ### The table, one category at a time -/

/-- The sign field is one bit (R33). -/
theorem sign_cases (x : Word) : Rules.sign x = 0 ∨ Rules.sign x = 1 :=
  Nat.le_one_iff_eq_zero_or_eq_one.1 (sign_le_one x)

/-- A NaN is in none of the first eight rows: its mantissa shuts out the zeros and the infinities (R95). -/
theorem fclass_of_nan {x : Word} (h : Rules.isNan x = true) :
    Rules.fclass x = if 2 ^ 22 ≤ Rules.mant x then 0x00000200#32 else 0x00000100#32 := by
  obtain ⟨he, hm⟩ := of_decide_eq_true h
  have rows : Rules.fclass x = if Rules.mant x < 2 ^ 22 then BitVec.ofNat 32 (2 ^ 8) else BitVec.ofNat 32 (2 ^ 9) := by
    simp [Rules.fclass, ninf_iff, nzero_iff, pzero_iff, pinf_iff, Rules.isNan, Rules.isNorm, Rules.isSub, he, hm]
  simp only [rows, ← not_le, ite_not]
  rfl

/-- An infinity is in row 0 or row 7 (R95). -/
theorem fclass_of_inf {x : Word} (h : Rules.isInf x = true) :
    Rules.fclass x = if Rules.sign x = 1 then 0x00000001#32 else 0x00000080#32 := by
  obtain ⟨he, hm⟩ := of_decide_eq_true h
  obtain hs | hs := sign_cases x <;>
    simp [Rules.fclass, ninf_iff, nzero_iff, pzero_iff, pinf_iff, Rules.isNorm, Rules.isSub, he, hm, hs]

/-- A normal is in row 1 or row 6 (R95). -/
theorem fclass_of_norm {x : Word} (h : Rules.isNorm x = true) :
    Rules.fclass x = if Rules.sign x = 1 then 0x00000002#32 else 0x00000040#32 := by
  have hexpo : 1 ≤ Rules.expo x ∧ Rules.expo x ≤ 254 := of_decide_eq_true h
  have hne0 : Rules.expo x ≠ 0 := by omega
  have hne255 : Rules.expo x ≠ 255 := by omega
  obtain hs | hs := sign_cases x <;>
    simp [Rules.fclass, ninf_iff, nzero_iff, pzero_iff, Rules.isSub, h, hne0, hne255, hs]

/-- A subnormal is in row 2 or row 5 (R95). -/
theorem fclass_of_sub {x : Word} (h : Rules.isSub x = true) :
    Rules.fclass x = if Rules.sign x = 1 then 0x00000004#32 else 0x00000020#32 := by
  obtain ⟨he, hm⟩ := of_decide_eq_true h
  obtain hs | hs := sign_cases x <;>
    simp [Rules.fclass, ninf_iff, nzero_iff, pzero_iff, Rules.isNorm, h, he, hm, hs]

/-- A zero is in row 3 or row 4 (R95). -/
theorem fclass_of_zero {x : Word} (h : Rules.isZero x = true) :
    Rules.fclass x = if Rules.sign x = 1 then 0x00000008#32 else 0x00000010#32 := by
  obtain ⟨he, hm⟩ := of_decide_eq_true h
  obtain hs | hs := sign_cases x <;>
    simp [Rules.fclass, ninf_iff, nzero_iff, pzero_iff, Rules.isNorm, Rules.isSub, he, hm, hs]

/-! ### The command -/

/-- The machine's sign bit, as the rules count it (R33). -/
theorem sign_eq_true_iff (x : Word) : sign x = true ↔ Rules.sign x = 1 := by
  rw [sign_rule, Bool.toNat_eq_one]

/-- The five categories cover every pattern, so one in none of the other four is a zero (R34). -/
theorem isZero_of_no_other {x : Word} (hnan : ¬ Rules.isNan x = true) (hinf : ¬ Rules.isInf x = true)
    (hnorm : ¬ Rules.isNorm x = true) (hsub : ¬ Rules.isSub x = true) : Rules.isZero x = true := by
  simpa [isZero_rule, isSub_rule, isNorm_rule, isInf_rule, isNan_rule, hnan, hinf, hnorm, hsub, List.count_cons]
    using count_categories x

/-- The machine's category says which two rows of the table are left, and its sign or quiet bit picks the one that
holds (R95). -/
theorem classify_rule (x : Word) : classify x = Rules.fclass x := by
  simp only [classify, isNan_rule, isInf_rule, isNorm_rule, isSub_rule, sign_eq_true_iff, getLsbD_22_iff]
  by_cases hnan : Rules.isNan x = true
  · rw [if_pos hnan, fclass_of_nan hnan]
  rw [if_neg hnan]
  by_cases hinf : Rules.isInf x = true
  · rw [if_pos hinf, fclass_of_inf hinf]
  rw [if_neg hinf]
  by_cases hnorm : Rules.isNorm x = true
  · rw [if_pos hnorm, fclass_of_norm hnorm]
  rw [if_neg hnorm]
  by_cases hsub : Rules.isSub x = true
  · rw [if_pos hsub, fclass_of_sub hsub]
  rw [if_neg hsub, fclass_of_zero (isZero_of_no_other hnan hinf hnorm hsub)]

/-- FCLASS answers the mask of `rs1` as it is: no flush comes before it (R95). -/
theorem exec_fclass (x b c : Word) (s : State) : exec (.fclass x b c) s = answer (classify x) s := rfl

/-- Settles O44: the machine's category and choice name the row of the table that holds. -/
theorem fclassAnswersTheTable : Obligations.FclassAnswersTheTable := by
  intro x b c s
  rw [exec_fclass, answer_eq, classify_rule]

end Sys2Proof.Proofs
end

section
/-! PROOFS. The family 47_reference_only.md: the codes without a unit raise the illegal operation, and the reference
functions in whole numbers against the rules' rational ones; the statements O46 and O48. -/

namespace Sys2Proof.Proofs

open Sys2Proof Sys2Proof.Machine Sys2Proof.Laws

/-! ### The commands -/

/-- A code without an implementation answers illegal in every state, whatever its operands (R108, R110). -/
theorem exec_eq_illegalRsp {i : Instr} (h : i.implemented = false) (s : State) :
    exec i s = .next (s.withRsp illegalRsp) := (exec_of_not_implemented h s).trans (raiseIllegal_eq s)

/-! ### The reference quotient -/

/-- Only the zeros have magnitude zero: a normal has its leading bit (R34, R50). -/
theorem mag_eq_zero_iff (x : Word) : mag x = 0 ↔ Rules.isZero x = true := by
  rw [mag, expo_rule, mant_rule, Rules.isZero, decide_eq_true_iff]
  split_ifs with hexpo
  · exact (and_iff_right hexpo).symm
  · have hlead : (2 ^ 23 + Rules.mant x) * 2 ^ (Rules.expo x - 1) ≠ 0 := by positivity
    exact iff_of_false hlead fun hzero => hexpo hzero.1

/-- The two magnitudes are in the same unit, which the exact quotient cancels (R50). -/
theorem abs_val_div_abs_val (a b : Word) : |Rules.val a| / |Rules.val b| = (mag a : ℚ) / mag b := by
  rw [abs_val_rule, abs_val_rule, div_div_div_cancel_right₀ (by positivity)]

/-- The machine rounds the exact quotient as the rule does, for a divisor that is no zero (R53). -/
theorem roundRne_quotient (s : Bool) (a : Word) {b : Word} (hb : ¬ Rules.isZero b = true) :
    roundRne s (mag a) (mag b) = Rules.roundRne s.toNat (|Rules.val a| / |Rules.val b|) := by
  have hmag : 0 < mag b := Nat.pos_of_ne_zero fun hzero => hb ((mag_eq_zero_iff b).1 hzero)
  rw [roundRneIsTheRule s _ _ hmag, abs_val_div_abs_val]

/-- The machine's native quotient is the rule's: the branches are the same, and the one that divides is reached only with
a divisor that is no zero (R106). -/
theorem divNative_rule (a b : Word) : divNative a b = Rules.divNative a b := by
  simp only [divNative, Rules.divNative, generatedNan, isNan_rule, isInf_rule, isZero_rule, infOf_rule, zeroOf_rule,
    xor_rule]
  by_cases hb : Rules.isZero b = true
  · simp only [if_pos hb]
  · simp only [if_neg hb, roundRne_quotient _ a hb, xor_rule]

/-- Settles O46: FDIV has no implementation, and both quotients are the same exact number, rounded once and flushed. -/
theorem refFdivIsRoundedQuotient : Obligations.RefFdivIsRoundedQuotient := by
  refine ⟨fun a b => ?_, fun a b c s => exec_eq_illegalRsp rfl s⟩
  rw [refFdiv, flush_rule, divNative_rule]

/-! ### The reference multiply-add forms -/

/-- Settles O48: none of the four codes has an implementation, and each form composes the native product, the native sum
and the negation, which are the rules', under one flush. -/
theorem refMultiplyAddRoundsTwice : Obligations.RefMultiplyAddRoundsTwice := by
  constructor
  · intro a b c s i hi
    have hnot : i.implemented = false := by fin_cases hi <;> rfl
    exact exec_eq_illegalRsp hnot s
  · intro a b c
    refine ⟨?fma, ?fms, ?fnms, ?fnma⟩
    case fma => rw [refFma, flush_rule, addNative_rule, mulNative_rule]
    case fms => rw [refFms, flush_rule, addNative_rule, mulNative_rule, neg_rule]
    case fnms => rw [refFnms, flush_rule, addNative_rule, neg_rule, mulNative_rule]
    case fnma => rw [refFnma, flush_rule, addNative_rule, neg_rule, neg_rule, mulNative_rule]

end Sys2Proof.Proofs
end

section
/-! PROOFS. The family 60_exceptions.md: the code alone decides whether a command is answered illegal, and a signaling NaN
is answered as any NaN; the statements O17 and O18. -/

namespace Sys2Proof.Proofs

open Sys2Proof Sys2Proof.Machine Sys2Proof.Laws

/-! ### Illegality -/

/-- The implemented codes are those up to 16 (R37). -/
theorem implemented_iff (i : Instr) : i.implemented = true ↔ i.opcode.toNat ≤ 16 := decide_eq_true_iff

/-- Settles O17: an implemented command answers a result, any other the illegal response, and the code says which it
is. -/
theorem onlyTheCodeDecidesIllegality : Obligations.OnlyTheCodeDecidesIllegality := by
  intro i s
  cases h : i.implemented with
  | true =>
    obtain ⟨d, hd⟩ := exec_of_implemented h
    have hcode : i.opcode.toNat ≤ 16 := (implemented_iff i).1 h
    exact ⟨_, (hd s).trans (answer_eq d s), rfl, by simp [hcode], by simp [hcode]⟩
  | false =>
    have hcode : 16 < i.opcode.toNat := (not_implemented_iff i).1 h
    exact ⟨_, exec_eq_illegalRsp h s, rfl, by simp [hcode], by simp [hcode]⟩

/-! ### A NaN operand -/

/-- A signaling NaN is a NaN whose mantissa's top bit is 0 (R35). -/
theorem isSnan_iff (x : Word) : isSnan x = true ↔ Rules.isNan x = true ∧ Rules.mant x < 2 ^ 22 := by
  obtain ⟨-, -, -, -, -, -, -, -, hsnan⟩ := patternsFallInOneCategory x
  rw [hsnan, isNan_rule]

/-- The sign is not part of what makes a NaN (R34, R50). -/
theorem isNan_neg (x : Word) : Rules.isNan (Rules.neg x) = Rules.isNan x := by
  rw [Rules.isNan, expo_neg, mant_neg, Rules.isNan]

/-- A pattern with the exponent of the infinities and NaNs passes the flush (R54). -/
theorem flush_of_expo {x : Word} (h : Rules.expo x = 255) : Rules.flush x = x := by
  simp [Rules.flush, Rules.isSub, h]

/-- FEQ, FLT and FLE answer 0 when an operand is a NaN (R72, R73, R74). -/
theorem exec_compare_of_nan {a b : Word} (h : (Rules.isNan a || Rules.isNan b) = true) (c : Word) (s : State) :
    exec (.feq a b c) s = .next (s.withRsp (RspPort.result 0x00000000#32)) ∧
    exec (.flt a b c) s = .next (s.withRsp (RspPort.result 0x00000000#32)) ∧
    exec (.fle a b c) s = .next (s.withRsp (RspPort.result 0x00000000#32)) := by
  obtain ⟨hfeq, hflt, hfle⟩ := comparisonsAnswerByTheOrder a b c s
  rw [hfeq, hflt, hfle, Rules.feq, Rules.flt, Rules.fle, if_pos h, if_pos h, if_pos h]
  exact ⟨rfl, rfl, rfl⟩

/-- The native sum of a NaN is the generated NaN (R62). -/
theorem addNative_of_nan {a b : Word} (h : (Rules.isNan a || Rules.isNan b) = true) :
    Rules.addNative a b = Config.qnanOut := if_pos h

/-- The native product of a NaN is the generated NaN (R66). -/
theorem mulNative_of_nan {a b : Word} (h : (Rules.isNan a || Rules.isNan b) = true) :
    Rules.mulNative a b = Config.qnanOut := if_pos h

/-- FADD, FSUB and FMUL answer the generated NaN when an operand is a NaN: negating the second operand keeps it one, and
the flush keeps the answer (R55, R60, R61, R65). -/
theorem exec_arith_of_nan {a b : Word} (h : (Rules.isNan a || Rules.isNan b) = true) (c : Word) (s : State) :
    exec (.fadd a b c) s = .next (s.withRsp (RspPort.result Config.qnanOut)) ∧
    exec (.fsub a b c) s = .next (s.withRsp (RspPort.result Config.qnanOut)) ∧
    exec (.fmul a b c) s = .next (s.withRsp (RspPort.result Config.qnanOut)) := by
  have hneg : (Rules.isNan a || Rules.isNan (Rules.neg b)) = true := by rwa [isNan_neg]
  have hflush : Rules.flush Config.qnanOut = Config.qnanOut := flush_of_expo rfl
  rw [faddAnswersRoundedSum, fsubAnswersRoundedDifference.1, fmulAnswersRoundedProduct, addNative_of_nan h,
    addNative_of_nan hneg, mulNative_of_nan h, hflush]
  exact ⟨rfl, rfl, rfl⟩

/-- A first operand that is a NaN leaves the minimum and the maximum to the second (R70 and R71, cases 1 and 2). -/
theorem fmin_fmax_of_nan_left {n : Word} (h : Rules.isNan n = true) (y : Word) :
    Rules.fmin n y = (if Rules.isNan y then Config.qnanOut else y) ∧
    Rules.fmax n y = (if Rules.isNan y then Config.qnanOut else y) := by
  simp [Rules.fmin, Rules.fmax, h]

/-- A second operand that is a NaN leaves the minimum and the maximum to the first (R70 and R71, cases 1 and 2). -/
theorem fmin_fmax_of_nan_right {n : Word} (h : Rules.isNan n = true) (y : Word) :
    Rules.fmin y n = (if Rules.isNan y then Config.qnanOut else y) ∧
    Rules.fmax y n = (if Rules.isNan y then Config.qnanOut else y) := by
  cases hy : Rules.isNan y <;> simp [Rules.fmin, Rules.fmax, h, hy]

/-- The exclusive or of two signs is one bit (R66). -/
theorem signXor_le_one (a b : Word) : Rules.signXor a b ≤ 1 := by
  rw [← xor_rule]
  exact Bool.toNat_le _

/-- Whatever sign a NaN is given, the flush passes it through (R54, R90). -/
theorem flush_cat_of_nan {x : Word} (h : Rules.isNan x = true) {t : ℕ} (ht : t ≤ 1) :
    Rules.flush (Rules.cat t (Rules.expo x) (Rules.mant x)) = Rules.cat t 255 (Rules.mant x) := by
  obtain ⟨hexpo, -⟩ := of_decide_eq_true h
  rw [hexpo, flush_of_expo (expo_cat ht (by decide) (mant_lt x))]

/-- FSGNJ, FSGNJN and FSGNJX keep a NaN's exponent and mantissa (R90, R91, R92). -/
theorem exec_inject_of_nan {x : Word} (h : Rules.isNan x = true) (y c : Word) (s : State) :
    exec (.fsgnj x y c) s = .next (s.withRsp (RspPort.result (Rules.cat (Rules.sign y) 255 (Rules.mant x)))) ∧
    exec (.fsgnjn x y c) s = .next (s.withRsp (RspPort.result (Rules.cat (1 - Rules.sign y) 255 (Rules.mant x)))) ∧
    exec (.fsgnjx x y c) s = .next (s.withRsp (RspPort.result (Rules.cat (Rules.signXor x y) 255 (Rules.mant x)))) := by
  rw [← flush_cat_of_nan h (sign_le_one y), ← flush_cat_of_nan h (Nat.sub_le 1 (Rules.sign y)),
    ← flush_cat_of_nan h (signXor_le_one x y)]
  exact signInjectionAnswers x y c s

/-! ### A signaling NaN -/

/-- Settles O18: only FCLASS reads the quiet bit, and every other command named answers a signaling NaN as any NaN. -/
theorem signalingNansDoNotSignal : Obligations.SignalingNansDoNotSignal := by
  intro x y c s hsnan
  obtain ⟨hnan, hmant⟩ := (isSnan_iff x).1 hsnan
  have hxy : (Rules.isNan x || Rules.isNan y) = true := by rw [hnan, Bool.true_or]
  have hyx : (Rules.isNan y || Rules.isNan x) = true := by rw [hnan, Bool.or_true]
  obtain ⟨hfsgnj, hfsgnjn, hfsgnjx⟩ := exec_inject_of_nan hnan y c s
  refine ⟨?compare, ?arith, ?minMax, hfsgnj, hfsgnjn, hfsgnjx, ?flush, ?fclass⟩
  case compare =>
    simp [exec_compare_of_nan hxy, exec_compare_of_nan hyx]
  case arith =>
    simp [exec_arith_of_nan hxy, exec_arith_of_nan hyx]
  case minMax =>
    have hexec (a b : Word) := fminFmaxAnswerByPriority a b c s
    simp [hexec, fmin_fmax_of_nan_left hnan, fmin_fmax_of_nan_right hnan]
  case flush =>
    obtain ⟨hexpo, -⟩ := of_decide_eq_true hnan
    rw [exec_flush, answer_eq, flush_rule, flush_of_expo hexpo]
  case fclass =>
    rw [fclassAnswersTheTable, fclass_of_nan hnan, if_neg hmant.not_ge]

end Sys2Proof.Proofs
end

section
/-! PROOFS. Command words: the four fields of a word are its digits in base `2^32`, so decoding and encoding undo each
other and a number is refused exactly when its code is too wide; the statements O1, O4 and O5. -/

namespace Sys2Proof.Proofs

open Sys2Proof Sys2Proof.Machine Sys2Proof.Laws

/-! ### Raw commands -/

/-- A command is read back from its own four numbers (R30). -/
theorem decodeRaw_raw (i : Instr) : decodeRaw i.raw = .ok i := by
  rw [decodeRaw_fits (wellFormed_all i), Instr.raw, BitVec.ofNat_toNat, BitVec.ofNat_toNat, BitVec.ofNat_toNat,
    BitVec.ofNat_toNat, BitVec.setWidth_eq, BitVec.setWidth_eq, BitVec.setWidth_eq, BitVec.setWidth_eq, decodeCmd_self]

/-- Four numbers that decode are the four numbers of the command they decode to (R30). -/
theorem raw_of_decodeRaw {c : RawCmd} {i : Instr} (h : decodeRaw c = .ok i) : i.raw = c := by
  have hfits := decodeRaw_ok h
  obtain rfl := Except.ok.inj ((decodeRaw_fits hfits).symm.trans h)
  simp only [RawCmd.wellFormed, RawCmd.opFits, RawCmd.rs1Fits, RawCmd.rs2Fits, RawCmd.rs3Fits, Bool.and_eq_true,
    decide_eq_true_iff] at hfits
  obtain ⟨⟨⟨hop, hrs1⟩, hrs2⟩, hrs3⟩ := hfits
  simp only [Instr.raw, decodeCmd_fields, BitVec.toNat_ofNat, Nat.mod_eq_of_lt hop, Nat.mod_eq_of_lt hrs1,
    Nat.mod_eq_of_lt hrs2, Nat.mod_eq_of_lt hrs3]

/-! ### Command words -/

/-- The fields of an encoded command are its four numbers (R30). -/
theorem rawOfWord_encode (i : Instr) : rawOfWord (encode i).toNat = i.raw := by
  have hrs1 := i.rs1.isLt
  have hrs2 := i.rs2.isLt
  have hrs3 := i.rs3.isLt
  rw [encode_toNat, rawOfWord, Instr.raw, RawCmd.mk.injEq]
  omega

/-- A command whose four numbers are the fields of `w` is encoded as `w` (R30). -/
theorem encode_toNat_of_raw {w : ℕ} {i : Instr} (h : i.raw = rawOfWord w) : (encode i).toNat = w := by
  obtain ⟨hop, hrs1, hrs2, hrs3⟩ := RawCmd.mk.inj h
  rw [encode_toNat, hop, hrs1, hrs2, hrs3]
  omega

/-- Settles O1: encoding a command lays out its four numbers as the fields of the word, and a word is its fields. -/
theorem decodeEncodeRoundTrip : Obligations.DecodeEncodeRoundTrip := by
  refine ⟨fun i => ⟨wellFormed_all i, ?_⟩, fun w i h => encode_toNat_of_raw (raw_of_decodeRaw h)⟩
  rw [decodeWord, rawOfWord_encode, decodeRaw_raw]

/-! ### Refusal -/

/-- Only the code of a number can be too wide: the operand fields are cut out of it (R30). -/
theorem wellFormed_rawOfWord (w : ℕ) : (rawOfWord w).wellFormed = (rawOfWord w).opFits := by
  have hrs1 : (rawOfWord w).rs1Fits = true := decide_eq_true (Nat.mod_lt _ (Nat.two_pow_pos 32))
  have hrs2 : (rawOfWord w).rs2Fits = true := decide_eq_true (Nat.mod_lt _ (Nat.two_pow_pos 32))
  have hrs3 : (rawOfWord w).rs3Fits = true := decide_eq_true (Nat.mod_lt _ (Nat.two_pow_pos 32))
  rw [RawCmd.wellFormed, hrs1, hrs2, hrs3, Bool.and_true, Bool.and_true, Bool.and_true]

/-- The code fits its 5 bits exactly when the number fits the 101 bits of a command word (R30). -/
theorem opFits_rawOfWord_iff (w : ℕ) : (rawOfWord w).opFits = true ↔ w < 2 ^ 101 := by
  have hop : (rawOfWord w).op = w / 2 ^ 96 := rfl
  rw [RawCmd.opFits, decide_eq_true_iff, hop]
  omega

/-- Settles O4: a number of at most 101 bits has four fields that fit, and a wider one a code that does not. -/
theorem decodeRefusesExactlyTooWide : Obligations.DecodeRefusesExactlyTooWide := by
  intro w
  have hsmall (h : w < 2 ^ 101) : ∃ i, decodeWord w = .ok i :=
    ⟨_, decodeRaw_fits ((wellFormed_rawOfWord w).trans ((opFits_rawOfWord_iff w).2 h))⟩
  refine ⟨⟨fun herr => ?_, fun h => ?_⟩, hsmall⟩
  · by_contra hlt
    obtain ⟨i, hok⟩ := hsmall (not_le.1 hlt)
    cases herr.symm.trans hok
  · have hop : (rawOfWord w).opFits = false := by
      rw [← Bool.not_eq_true, opFits_rawOfWord_iff]
      exact h.not_gt
    rw [decodeWord, decodeRaw, if_pos hop]

/-- Settles O5: each word is evaluated. -/
theorem specWordsDecode : Obligations.SpecWordsDecode :=
  ⟨rfl, rfl, rfl, rfl, rfl, rfl, rfl, rfl, rfl, rfl⟩

end Sys2Proof.Proofs
end

section
/-! PROOFS. The step: every command answers the rules' response, so one function says where a step goes, and the
invariant of the response port and the responses of a run follow from its fields; the statements O6 to O9, O11 to O13
and O15. -/

namespace Sys2Proof.Proofs

open Sys2Proof Sys2Proof.Machine Sys2Proof.Laws

/-! ### The rules' response -/

/-- The rules always give a response (R16). -/
@[simp] theorem ruleResponse_valid (c : CmdPort) : (ruleResponse c).valid = true := by
  unfold ruleResponse
  split <;> rfl

/-- The rules' illegal response carries `ILLEGAL_DATA` (R110). -/
theorem ruleResponse_data_of_illegal {c : CmdPort} (h : (ruleResponse c).illegal = true) :
    (ruleResponse c).data = Config.illegalData := by
  unfold ruleResponse at h ⊢
  split at h
  · cases h
  · rfl

/-- Every command answers the response the rules give it, and touches nothing else (R16, R110). -/
theorem exec_eq_ruleResponse (i : Instr) (s : State) :
    exec i s = .next (s.withRsp (ruleResponse (CmdPort.ofInstr i))) := by
  cases i with
  | fadd a b c => exact faddAnswersRoundedSum a b c s
  | fsub a b c => exact fsubAnswersRoundedDifference.1 a b c s
  | fmul a b c => exact fmulAnswersRoundedProduct a b c s
  | fmin a b c => exact (fminFmaxAnswerByPriority a b c s).1
  | fmax a b c => exact (fminFmaxAnswerByPriority a b c s).2
  | feq a b c => exact (comparisonsAnswerByTheOrder a b c s).1
  | flt a b c => exact (comparisonsAnswerByTheOrder a b c s).2.1
  | fle a b c => exact (comparisonsAnswerByTheOrder a b c s).2.2
  | f2ui a b c => exact f2uiAnswersNearestInteger a b c s
  | f2si a b c => exact f2siAnswersNearestInteger a b c s
  | ui2f a b c => exact ui2fAnswersRoundedInteger a b c s
  | si2f a b c => exact si2fAnswersRoundedInteger a b c s
  | fsgnj a b c => exact (signInjectionAnswers a b c s).1
  | fsgnjn a b c => exact (signInjectionAnswers a b c s).2.1
  | fsgnjx a b c => exact (signInjectionAnswers a b c s).2.2
  | fclass a b c => exact fclassAnswersTheTable a b c s
  | flush a b c =>
    rw [exec_flush, answer_eq, flush_rule]
    rfl
  | fdiv | fsqrt | fma | fms | fnms | fnma | reserved23 | reserved24 | reserved25 | reserved26 | reserved27
  | reserved28 | reserved29 | reserved30 | reserved31 => exact exec_eq_illegalRsp rfl s

/-- Settles O15: a command sets the response port, to a valid response. -/
theorem execChangesOnlyTheResponse : Obligations.ExecChangesOnlyTheResponse := by
  intro i s t h
  obtain rfl := Host.Outcome.next.inj ((exec_eq_ruleResponse i s).symm.trans h)
  exact ⟨rfl, rfl, rfl, ruleResponse_valid _⟩

/-! ### Where a step goes -/

/-- The state after one step: the rules' response to the command taken, or silence, and then the host's next pins. -/
def stepState (s : State) : State :=
  advance (if s.pins.answers then s.withRsp (ruleResponse s.pins.cmd) else silent s)

/-- A command is taken where one is presented outside reset (R16, R120). -/
theorem answers_iff (p : Pins) : p.answers = true ↔ p.rst = false ∧ p.cmd.valid = true := by
  rw [Pins.answers, Bool.and_eq_true, Bool.not_eq_true']

/-- Every step has a next state, which is `stepState` (R16, R111). -/
theorem step_eq (s : State) : step s = .next (stepState s) := by
  rw [stepState]
  cases hans : s.pins.answers with
  | true =>
    obtain ⟨-, hvalid⟩ := (answers_iff s.pins).1 hans
    rw [step_exec hans, exec_eq_ruleResponse, ofInstr_fetch hvalid, thenAdvance, if_pos rfl]
  | false => rw [step_silent hans, if_neg Bool.false_ne_true]

/-- A step that can be observed went to `stepState`. -/
theorem eq_stepState_of_step {s t : State} (h : step s = .next t) : t = stepState s :=
  Host.Outcome.next.inj (h.symm.trans (step_eq s))

/-- After a step the host drives its next pins (log entry 8). -/
@[simp] theorem stepState_pins (s : State) : (stepState s).pins = nextPins s := by
  obtain ⟨hpins, -⟩ := advance_fields (if s.pins.answers then s.withRsp (ruleResponse s.pins.cmd) else silent s)
  rw [stepState, hpins]
  split <;> rfl

/-- A step uses up one of the host's moves (log entry 8). -/
@[simp] theorem stepState_inputs (s : State) : (stepState s).inputs = s.inputs.tail := by
  obtain ⟨-, hinputs, -⟩ := advance_fields (if s.pins.answers then s.withRsp (ruleResponse s.pins.cmd) else silent s)
  rw [stepState, hinputs]
  split <;> rfl

/-- A step that takes a command leaves the rules' response to it on the port (R16). -/
theorem stepState_rsp {s : State} (h : s.pins.answers = true) : (stepState s).rsp = ruleResponse s.pins.cmd := by
  obtain ⟨-, -, hrsp, -⟩ := advance_fields (s.withRsp (ruleResponse s.pins.cmd))
  rw [stepState, if_pos h, hrsp, State.withRsp_rsp]

/-- A response is presented exactly after a step that took a command (R16, R19, R120). -/
@[simp] theorem stepState_valid (s : State) : (stepState s).rsp.valid = s.pins.answers := by
  cases h : s.pins.answers with
  | true => rw [stepState_rsp h, ruleResponse_valid]
  | false =>
    obtain ⟨-, -, hrsp, -⟩ := advance_fields (silent s)
    rw [stepState, if_neg (Bool.eq_false_iff.1 h), hrsp, silent_valid]

/-- A step that takes a command draws no free value. -/
theorem stepState_draws {s : State} (h : s.pins.answers = true) : (stepState s).draws = s.draws := by
  obtain ⟨-, -, -, hdraws⟩ := advance_fields (s.withRsp (ruleResponse s.pins.cmd))
  rw [stepState, if_pos h, hdraws, State.withRsp_draws]

/-- Settles O7: under reset no command is taken. -/
theorem resetDiscardsTheCommand : Obligations.ResetDiscardsTheCommand := by
  intro s hrst
  have hans : s.pins.answers = false := by rw [Pins.answers, hrst, Bool.not_true, Bool.false_and]
  exact ⟨stepState s, step_eq s, (stepState_valid s).trans hans, stepState_pins s, stepState_inputs s⟩

/-- Settles O13: a response on the port after a step is the rules' response to the command taken. -/
theorem illegalResponseCarriesIllegalData : Obligations.IllegalResponseCarriesIllegalData := by
  intro s t hstep hvalid hillegal
  obtain rfl := eq_stepState_of_step hstep
  rw [stepState_valid] at hvalid
  rw [stepState_rsp hvalid] at hillegal ⊢
  exact ruleResponse_data_of_illegal hillegal

/-! ### A command word on the port -/

/-- A command word's pins present the command it decodes to (R14, R30). -/
theorem pinsOfRaw_eq_present {c : RawCmd} {i : Instr} (h : decodeRaw c = .ok i) : pinsOfRaw c = Pins.present i := by
  rw [← raw_of_decodeRaw h, pinsOfRaw, Pins.present, CmdPort.ofInstr, Instr.raw, BitVec.ofNat_toNat, BitVec.ofNat_toNat,
    BitVec.ofNat_toNat, BitVec.ofNat_toNat, BitVec.setWidth_eq, BitVec.setWidth_eq, BitVec.setWidth_eq,
    BitVec.setWidth_eq]

/-- The decoder of table words is the decoder of raw commands, errors forgotten (log entry 4). -/
theorem decodeRaw_of_decodeTableWord {nbits w : ℕ} {i : Instr} (h : decodeTableWord nbits w = some i) :
    decodeRaw (rawOfWord (wordOfBits nbits w)) = .ok i := by
  rw [decodeTableWord] at h
  split at h
  · next j hj => rw [← Option.some.inj h, ← hj, decodeWord]
  · cases h

/-- A command word placed on the port is the command presented (log entry 4). -/
theorem withFetchWord_pins (s : State) {nbits w : ℕ} {i : Instr} (h : decodeTableWord nbits w = some i) :
    (s.withFetchWord nbits w).pins = Pins.present i := by
  have hraw := decodeRaw_of_decodeTableWord h
  rw [State.withFetchWord, if_pos (decodeRaw_ok hraw), State.withPins_pins, pinsOfRaw_eq_present hraw]

/-- The command presented is the command taken (R16, R26). -/
theorem fetch_of_present {s : State} {i : Instr} (h : s.pins = Pins.present i) : fetch s = i := by
  rw [fetch, h]
  exact decodeCmd_self i

/-- Settles O6: a step that answers executes what the port decodes to, and a word's command is on the port. -/
theorem stepRunsDecodedCommand : Obligations.StepRunsDecodedCommand := by
  refine ⟨fun s hrst hvalid => step_exec ((answers_iff s.pins).2 ⟨hrst, hvalid⟩), fun s nbits w i h => ?_⟩
  have hpins := withFetchWord_pins s h
  have hans : (s.withFetchWord nbits w).pins.answers = true := by rw [hpins]; rfl
  exact ⟨hpins, by rw [step_exec hans, fetch_of_present hpins]⟩

/-! ### A run -/

/-- The responses of a run, one step at a time. -/
theorem responses_succ (n : ℕ) (s : State) : responses (n + 1) s =
    if s.pins.answers then ruleResponse s.pins.cmd :: responses n (stepState s) else responses n (stepState s) := by
  simp only [responses, step_eq, stepState_valid]
  split_ifs with h
  · rw [stepState_rsp h]
  · rfl

/-- A command withdrawn is not taken. -/
theorem withdraw_answers (p : Pins) : (withdraw p).answers = false := rfl

/-- With no move left the host withdraws its command (log entry 8). -/
theorem nextPins_of_nil {s : State} (h : s.inputs = []) : nextPins s = withdraw s.pins := by
  rw [nextPins, h]

/-- With a move left the host makes it (log entry 8). -/
theorem nextPins_of_cons {s : State} {p : Pins} {ps : List Pins} (h : s.inputs = p :: ps) : nextPins s = p := by
  rw [nextPins, h]

/-- A host that presents nothing and has no move left sees no response. -/
theorem responses_of_quiet (n : ℕ) {s : State} (hinputs : s.inputs = []) (hans : s.pins.answers = false) :
    responses n s = [] := by
  induction n generalizing s with
  | zero => rfl
  | succ n ih =>
    rw [responses_succ, if_neg (Bool.eq_false_iff.1 hans)]
    apply ih
    · rw [stepState_inputs, hinputs, List.tail_nil]
    · rw [stepState_pins, nextPins_of_nil hinputs, withdraw_answers]

/-- A run over all the host's moves, and any steps after them, shows the rules' responses to them. -/
theorem responses_eq_ruleResponses (n : ℕ) {moves : List Pins} {s : State} (h : s.inputs = moves) :
    responses (moves.length + 1 + n) s = ruleResponses (s.pins :: moves) := by
  induction moves generalizing s with
  | nil =>
    have hrest : responses n (stepState s) = [] := by
      apply responses_of_quiet
      · rw [stepState_inputs, h, List.tail_nil]
      · rw [stepState_pins, nextPins_of_nil h, withdraw_answers]
    rw [List.length_nil, Nat.zero_add, Nat.add_comm, responses_succ, hrest]
    rfl
  | cons p ps ih =>
    have hrest : responses (ps.length + 1 + n) (stepState s) = ruleResponses (p :: ps) := by
      have hinputs : (stepState s).inputs = ps := by rw [stepState_inputs, h, List.tail_cons]
      rw [ih hinputs, stepState_pins, nextPins_of_cons h]
    rw [List.length_cons, Nat.add_right_comm, responses_succ, hrest]
    rfl

/-- Settles O9: the fields of `stepState`, and the run by induction on the host's moves. -/
theorem stepAnswersByTheRules : Obligations.StepAnswersByTheRules := by
  refine ⟨fun s hrst hvalid => ?_, fun s _ hvalid => ?_, fun s => ⟨_, step_eq s⟩,
    fun s n => responses_eq_ruleResponses n rfl⟩
  · have hans := (answers_iff s.pins).2 ⟨hrst, hvalid⟩
    exact ⟨stepState s, step_eq s, stepState_rsp hans, stepState_pins s, stepState_inputs s, stepState_draws hans⟩
  · have hans : s.pins.answers = false := by rw [Pins.answers, hvalid, Bool.and_false]
    exact ⟨stepState s, step_eq s, (stepState_valid s).trans hans, stepState_pins s, stepState_inputs s⟩

/-- Settles O8: the host after reset is quiet, and a command it presents is answered as in any state. -/
theorem resetHasNoResponsePending : Obligations.ResetHasNoResponsePending :=
  ⟨rfl, fun n => responses_of_quiet n rfl rfl, fun i =>
    ⟨_, step_eq (State.reset.withPins (Pins.present i)), stepState_rsp rfl⟩⟩

/-! ### The invariant of the response port -/

/-- In a sound state, the command the host's move `n` offers is the one its pins offer. -/
theorem takenAt_of_sound {moves : List Pins} {n : ℕ} {s : State} (h : RspSound moves n s) :
    takenAt moves n = if s.pins.answers then some s.pins.cmd else none := by
  rcases h.pins with hmove | ⟨hpast, hans⟩
  · rw [takenAt, hmove]
  · rw [takenAt, List.getElem?_eq_none hpast, hans, if_neg Bool.false_ne_true]

/-- The host's next pins are its next move, or nothing when it has made them all. -/
theorem nextPins_of_sound {moves : List Pins} {n : ℕ} {s : State} (h : RspSound moves n s) :
    moves[n + 1]? = some (nextPins s) ∨ moves.length ≤ n + 1 ∧ (nextPins s).answers = false := by
  have hhead : moves[n + 1]? = s.inputs.head? := by rw [h.inputs, List.head?_drop]
  cases hinputs : s.inputs with
  | nil =>
    refine .inr ⟨List.drop_eq_nil_iff.1 (h.inputs.symm.trans hinputs), ?_⟩
    rw [nextPins_of_nil hinputs, withdraw_answers]
  | cons p ps => exact .inl (by rw [hhead, nextPins_of_cons hinputs, hinputs, List.head?_cons])

/-- Settles O11: the step's response is the rules' answer to its pins, which are the host's move. -/
theorem stepKeepsResponseSound : Obligations.StepKeepsResponseSound := by
  intro moves n s t hsound hstep
  obtain rfl := eq_stepState_of_step hstep
  have htaken := takenAt_of_sound hsound
  refine ⟨?pins, ?inputs, nofun, ?answered, ?silent⟩
  case pins => simpa only [stepState_pins] using nextPins_of_sound hsound
  case inputs => rw [stepState_inputs, hsound.inputs, List.tail_drop]
  case answered =>
    rintro _ c ⟨⟩ hc
    rw [htaken, Option.ite_none_right_eq_some, Option.some.injEq] at hc
    obtain ⟨hans, rfl⟩ := hc
    exact stepState_rsp hans
  case silent =>
    rintro _ ⟨⟩ hnone
    rw [htaken, ite_eq_right_iff] at hnone
    rw [stepState_valid, Bool.eq_false_iff]
    exact fun hans => nomatch hnone hans

/-- Settles O12: before the first step the pins are move 0 and no response is presented. -/
theorem resetResponseSound : Obligations.ResetResponseSound :=
  ⟨⟨.inl rfl, rfl, fun _ => rfl, nofun, nofun⟩, fun _ _ => ⟨.inl rfl, rfl, fun _ => rfl, nofun, nofun⟩⟩

end Sys2Proof.Proofs
end

section
/-! PROOFS. Results: the pattern of each kind, the pseudo-operations, the order of two patterns and what it makes of the
comparisons, the symmetry of FADD, FMUL, FMIN and FMAX, and where a subnormal result can come from; the statements O19,
O26, O31, O33, O35, O43 and O45. -/

namespace Sys2Proof.Proofs

open Sys2Proof Sys2Proof.Machine Sys2Proof.Laws

/-! ### The kinds of results -/

/-- The rules' class mask is one of bits 9:0, whichever row of the table applies (R95). -/
theorem fclass_oneHot (x : Word) : ∃ k, k < 10 ∧ Rules.fclass x = BitVec.ofNat 32 (2 ^ k) := by
  unfold Rules.fclass
  split_ifs
  exacts [⟨0, by decide, rfl⟩, ⟨1, by decide, rfl⟩, ⟨2, by decide, rfl⟩, ⟨3, by decide, rfl⟩, ⟨4, by decide, rfl⟩,
    ⟨5, by decide, rfl⟩, ⟨6, by decide, rfl⟩, ⟨7, by decide, rfl⟩, ⟨8, by decide, rfl⟩, ⟨9, by decide, rfl⟩]

/-- Settles O45: each row of the table sets one bit, and FCLASS answers the row that applies. -/
theorem fclassIsOneHot : Obligations.FclassIsOneHot := by
  intro x b c s
  obtain ⟨k, hk, hmask⟩ := fclass_oneHot x
  exact ⟨k, hk, by rw [fclassAnswersTheTable, hmask]⟩

/-- A comparison answers a truth value (R36, R37). -/
theorem exec_of_bool {i : Instr} (h : i.resultKind = .bool) (s : State) : ∃ b, exec i s = answer (truth b) s := by
  cases i with
  | feq | flt | fle => exact ⟨_, rfl⟩
  | _ => cases h

/-- Only FCLASS answers a class mask (R36, R37). -/
theorem eq_fclass_of_mask {i : Instr} (h : i.resultKind = .mask) : ∃ a b c, i = .fclass a b c := by
  cases i with
  | fclass a b c => exact ⟨a, b, c, rfl⟩
  | _ => cases h

/-- The operations without a result are those without an implementation (R36, R39). -/
theorem resultKind_eq_noResult_iff (i : Instr) : i.resultKind = .noResult ↔ i.implemented = false := by
  cases i <;> simp [Instr.resultKind, Instr.implemented, Instr.opcode]

/-- A truth value is one of two patterns (R36). -/
theorem truth_cases (b : Bool) : truth b = 0x00000000#32 ∨ truth b = 0x00000001#32 := by
  cases b
  · exact .inl rfl
  · exact .inr rfl

/-- Settles O19: the kind says which commands can be meant, and the code whether the response is illegal. -/
theorem resultsHaveTheirKind : Obligations.ResultsHaveTheirKind := by
  intro i s
  obtain ⟨t, hexec, -, hillegal, himpl⟩ := onlyTheCodeDecidesIllegality i s
  have data_of {d : Word} (h : exec i s = answer d s) : t.rsp.data = d := by
    obtain rfl := Host.Outcome.next.inj (hexec.symm.trans h)
    rfl
  refine ⟨t, hexec, fun hbool => ?bool, fun hmask => ?mask, ?illegal⟩
  case bool =>
    obtain ⟨b, hb⟩ := exec_of_bool hbool s
    rw [data_of hb]
    exact truth_cases b
  case mask =>
    obtain ⟨a, b, c, rfl⟩ := eq_fclass_of_mask hmask
    obtain ⟨k, hk, hclass⟩ := fclass_oneHot a
    exact ⟨k, hk, by rw [data_of (exec_fclass a b c s), classify_rule, hclass]⟩
  case illegal =>
    rw [resultKind_eq_noResult_iff, hillegal, ← Bool.not_eq_true, himpl, not_le]

/-! ### The pseudo-operations -/

/-- The flush keeps the sign, so it does not matter whether the sign is inverted before or after it (R54). -/
theorem flush_neg (x : Word) : Rules.flush (Rules.neg x) = Rules.neg (Rules.flush x) := by
  have hs := sign_le_one x
  have hsub : Rules.isSub (Rules.neg x) = Rules.isSub x := by rw [Rules.isSub, expo_neg, mant_neg, Rules.isSub]
  rw [Rules.flush, Rules.flush, hsub]
  split_ifs
  · rw [sign_neg, Rules.neg, sign_cat hs (by decide) (by decide), expo_cat hs (by decide) (by decide),
      mant_cat hs (by decide) (by decide)]
  · rfl

/-- The mask `0x7FFFFFFF` clears the sign and keeps the other fields (R33). -/
theorem and_mask_eq_cat (x : Word) : x &&& 0x7FFFFFFF#32 = Rules.cat 0 (Rules.expo x) (Rules.mant x) := by
  have he := expo_lt x
  have hm := mant_lt x
  apply BitVec.eq_of_toNat_eq
  rw [BitVec.toNat_and, cat_toNat (by decide) he hm, (by decide : BitVec.toNat 0x7FFFFFFF#32 = 2 ^ 31 - 1),
    Nat.and_two_pow_sub_one_eq_mod, toNat_fields x]
  omega

/-- The flush looks at the other fields alone, so it does not matter whether the sign is cleared before or after it
(R54). -/
theorem flush_clear_sign (x : Word) :
    Rules.flush (Rules.cat 0 (Rules.expo x) (Rules.mant x)) = Rules.flush x &&& 0x7FFFFFFF#32 := by
  have he := expo_lt x
  have hm := mant_lt x
  have hs := sign_le_one x
  have hsub : Rules.isSub (Rules.cat 0 (Rules.expo x) (Rules.mant x)) = Rules.isSub x := by
    rw [Rules.isSub, expo_cat (by decide) he hm, mant_cat (by decide) he hm, Rules.isSub]
  rw [Rules.flush, Rules.flush, hsub, and_mask_eq_cat]
  split_ifs
  · rw [sign_cat (by decide) he hm, expo_cat hs (by decide) (by decide), mant_cat hs (by decide) (by decide)]
  · rfl

/-- Settles O43: with both operands equal the sign selector keeps, inverts or clears the operand's own sign. -/
theorem pseudoOperationsFlush : Obligations.PseudoOperationsFlush := by
  intro a s
  obtain ⟨hmov, hneg, habs⟩ := signInjectionAnswers a a 0#32 s
  refine ⟨?mov, ?neg, ?abs⟩
  case mov => rw [hmov, Rules.fsgnj, cat_fields]
  case neg =>
    have hxor : Rules.flush a ^^^ 0x80000000#32 = Rules.neg (Rules.flush a) := neg_rule (Rules.flush a)
    rw [hneg, hxor, ← flush_neg]
    rfl
  case abs => rw [habs, Rules.fsgnjx, Rules.signXor, if_pos rfl, flush_clear_sign]

/-! ### Patterns by sign and magnitude -/

/-- Two patterns with the same fields are the same (R33). -/
theorem eq_of_fields {a b : Word} (hs : Rules.sign a = Rules.sign b) (he : Rules.expo a = Rules.expo b)
    (hm : Rules.mant a = Rules.mant b) : a = b := by
  rw [← cat_fields a, hs, he, hm, cat_fields]

/-- A pattern is below the smallest normal exactly when its exponent field is 0 (R50). -/
theorem mag_lt_two_pow_iff (x : Word) : mag x < 2 ^ 23 ↔ Rules.expo x = 0 := by
  have hm := mant_lt x
  rw [mag, expo_rule, mant_rule]
  split_ifs with h
  · exact iff_of_true hm h
  · have hlead : 2 ^ 23 ≤ (2 ^ 23 + Rules.mant x) * 2 ^ (Rules.expo x - 1) :=
      le_mul_of_le_of_one_le (Nat.le_add_right _ _) Nat.one_le_two_pow
    exact iff_of_false hlead.not_gt h

/-- From the smallest normal on the exponent field tells the leading bit of the magnitude (R50). -/
theorem log2_mag {x : Word} (h : Rules.expo x ≠ 0) : Nat.log2 (mag x) = Rules.expo x + 22 := by
  have hm := mant_lt x
  obtain ⟨e, he⟩ := Nat.exists_eq_succ_of_ne_zero h
  rw [mag, expo_rule, mant_rule, if_neg h, he, Nat.succ_sub_one, Nat.log2_eq_iff (by positivity),
    (by omega : e.succ + 22 = 23 + e), (by omega : 23 + e + 1 = 24 + e), pow_add, pow_add]
  exact ⟨Nat.mul_le_mul_right _ (Nat.le_add_right _ _), Nat.mul_lt_mul_of_pos_right (by omega) (Nat.two_pow_pos e)⟩

/-- A magnitude has one exponent field and one mantissa field (R50). -/
theorem fields_of_mag {a b : Word} (h : mag a = mag b) : Rules.expo a = Rules.expo b ∧ Rules.mant a = Rules.mant b := by
  have hzero : Rules.expo a = 0 ↔ Rules.expo b = 0 := by rw [← mag_lt_two_pow_iff, h, mag_lt_two_pow_iff]
  have he : Rules.expo a = Rules.expo b := by
    by_cases ha : Rules.expo a = 0
    · rw [ha, hzero.1 ha]
    · have hlog := log2_mag ha
      rw [h, log2_mag (mt hzero.2 ha)] at hlog
      omega
  rw [mag, mag, expo_rule, expo_rule, mant_rule, mant_rule, he] at h
  split_ifs at h
  · exact ⟨he, h⟩
  · have := Nat.eq_of_mul_eq_mul_right (Nat.two_pow_pos _) h
    exact ⟨he, by omega⟩

/-- A pattern is its sign and its magnitude (R50). -/
theorem eq_of_sign_mag {a b : Word} (hs : Rules.sign a = Rules.sign b) (hm : mag a = mag b) : a = b :=
  eq_of_fields hs (fields_of_mag hm).1 (fields_of_mag hm).2

/-- Only the zeros share a value (R50). -/
theorem scaled_eq_iff (a b : Word) :
    scaled a = scaled b ↔ a = b ∨ Rules.isZero a = true ∧ Rules.isZero b = true := by
  rw [← mag_eq_zero_iff, ← mag_eq_zero_iff]
  constructor
  · intro h
    have hmag : mag a = mag b := by
      unfold scaled at h
      split_ifs at h <;> omega
    by_cases hzero : mag a = 0
    · exact .inr ⟨hzero, hmag ▸ hzero⟩
    · have hsign : sign a = sign b := by
        by_contra hne
        rw [scaled, scaled, Bool.eq_not_of_ne hne] at h
        cases hb : sign b <;> simp [hb] at h <;> omega
      exact .inl (eq_of_sign_mag ((sign_eq_iff a b).1 hsign) hmag)
  · rintro (rfl | ⟨ha, hb⟩)
    · rfl
    · rw [scaled, scaled, ha, hb]
      simp

/-! ### The order of two patterns -/

/-- No extended value is below another and above it (R75). -/
theorem ext_lt_asymm {x y : Machine.Ext} (h : x.lt y = true) : y.lt x = false := by
  cases x <;> cases y <;> simp_all [Machine.Ext.lt]
  omega

/-- Two extended values are equal when neither is below the other (R75). -/
theorem ext_eq_iff_not_lt (x y : Machine.Ext) : x = y ↔ x.lt y = false ∧ y.lt x = false := by
  cases x <;> cases y <;> simp [Machine.Ext.lt]
  omega

/-- Two infinities of one sign are the same pattern (R34). -/
theorem eq_of_isInf {a b : Word} (ha : Rules.isInf a = true) (hb : Rules.isInf b = true)
    (hs : Rules.sign a = Rules.sign b) : a = b := by
  obtain ⟨hea, hma⟩ := of_decide_eq_true ha
  obtain ⟨heb, hmb⟩ := of_decide_eq_true hb
  exact eq_of_fields hs (hea.trans heb.symm) (hma.trans hmb.symm)

/-- A zero is no infinity (R34). -/
theorem isInf_of_isZero {a : Word} (h : Rules.isZero a = true) : Rules.isInf a = false := by
  obtain ⟨he, -⟩ := of_decide_eq_true h
  simp [Rules.isInf, he]

/-- An infinity is an extended value of its own (R75). -/
theorem ext_of_isInf {a : Word} (h : Rules.isInf a = true) :
    Machine.ext a = if sign a then .negInf else .posInf := by
  rw [Machine.ext, isInf_rule, if_pos h]

/-- A pattern that is no infinity stands for its value (R75). -/
theorem ext_of_not_isInf {a : Word} (h : Rules.isInf a = false) : Machine.ext a = .fin (scaled a) := by
  rw [Machine.ext, isInf_rule, if_neg (Bool.eq_false_iff.1 h)]

/-- The order tells two patterns apart but for the zeros (R75). -/
theorem ext_eq_iff (a b : Word) :
    Machine.ext a = Machine.ext b ↔ a = b ∨ Rules.isZero a = true ∧ Rules.isZero b = true := by
  constructor
  · intro h
    cases ha : Rules.isInf a <;> cases hb : Rules.isInf b
    · rw [ext_of_not_isInf ha, ext_of_not_isInf hb] at h
      exact (scaled_eq_iff a b).1 (Machine.Ext.fin.inj h)
    · rw [ext_of_not_isInf ha, ext_of_isInf hb] at h
      split_ifs at h
    · rw [ext_of_isInf ha, ext_of_not_isInf hb] at h
      split_ifs at h
    · have hsign : sign a = sign b := by
        rw [ext_of_isInf ha, ext_of_isInf hb] at h
        split_ifs at h <;> simp_all
      exact .inl (eq_of_isInf ha hb ((sign_eq_iff a b).1 hsign))
  · rintro (rfl | ⟨ha, hb⟩)
    · rfl
    · rw [ext_of_not_isInf (isInf_of_isZero ha), ext_of_not_isInf (isInf_of_isZero hb),
        (scaled_eq_iff a b).2 (.inr ⟨ha, hb⟩)]

/-- Neither of two patterns is the less exactly when they are the same or both zeros (R72, R75). -/
theorem not_less_not_greater_iff (a b : Word) :
    less a b = false ∧ greater a b = false ↔ a = b ∨ Rules.isZero a = true ∧ Rules.isZero b = true := by
  rw [← ext_eq_iff, ext_eq_iff_not_lt]
  rfl

/-- A pattern less than another is not greater than it (R75). -/
theorem not_greater_of_less {a b : Word} (h : less a b = true) : greater a b = false := ext_lt_asymm h

/-- A comparison of two patterns of which neither is a NaN answers its truth value (R72, R73, R74). -/
theorem ordered_of_not_nan {a b : Word} (ha : Rules.isNan a = false) (hb : Rules.isNan b = false) (holds : Bool) :
    ordered a b holds = if holds then 1#32 else 0#32 := by
  rw [ordered_eq_ite, ha, hb]
  rfl

/-- Settles O35: the three comparisons are made of less and greater, which exclude each other. -/
theorem comparisonsAreConsistent : Obligations.ComparisonsAreConsistent := by
  intro a b c s ha hb
  refine ⟨!less a b && !greater a b, less a b, !greater a b, ?feq, ?flt, ?fle, ?le, ?never, ?eq⟩
  case feq => rw [exec_feq, answer_eq, ordered_of_not_nan ha hb]
  case flt => rw [exec_flt, answer_eq, ordered_of_not_nan ha hb]
  case fle => rw [exec_fle, answer_eq, ordered_of_not_nan ha hb]
  case le =>
    cases hl : less a b
    · simp
    · simp [not_greater_of_less hl]
  case never => cases less a b <;> rfl
  case eq => rw [← not_less_not_greater_iff, Bool.and_eq_true, Bool.not_eq_true', Bool.not_eq_true']

/-! ### Symmetry -/

/-- Whether two patterns are zeros of different sign does not depend on their order (R70). -/
theorem mixedZeros_comm (a b : Word) : mixedZeros a b = mixedZeros b a := by
  rw [Bool.eq_iff_iff, mixedZeros_iff, mixedZeros_iff]
  tauto

/-- Zeros that are not of different sign are the same (R34). -/
theorem eq_of_isZero {a b : Word} (ha : Rules.isZero a = true) (hb : Rules.isZero b = true)
    (h : mixedZeros a b = false) : a = b := by
  obtain ⟨hea, hma⟩ := of_decide_eq_true ha
  obtain ⟨heb, hmb⟩ := of_decide_eq_true hb
  refine eq_of_fields ?_ (hea.trans heb.symm) (hma.trans hmb.symm)
  rw [← Bool.not_eq_true, mixedZeros_iff, nzero_iff, pzero_iff, nzero_iff, pzero_iff] at h
  obtain hsa | hsa := sign_cases a <;> obtain hsb | hsb := sign_cases b <;> simp_all

/-- Past the third case of FMIN and FMAX two patterns are the same or one of them is the less (R70). -/
theorem eq_or_less_eq_not_greater {a b : Word} (h : mixedZeros a b = false) : a = b ∨ less a b = !greater a b := by
  cases hl : less a b with
  | true => exact .inr (by rw [not_greater_of_less hl, Bool.not_false])
  | false =>
    cases hg : greater a b with
    | true => exact .inr rfl
    | false =>
      obtain heq | ⟨ha, hb⟩ := (not_less_not_greater_iff a b).1 ⟨hl, hg⟩
      · exact .inl heq
      · exact .inl (eq_of_isZero ha hb h)

/-- What is greater than a pattern is what the pattern is less than (R75). -/
theorem greater_swap (a b : Word) : greater a b = less b a := rfl

/-- The four cases of FMIN are symmetrical (R70). -/
theorem fmin_comm (a b : Word) : fmin a b = fmin b a := by
  simp only [fmin, mixedZeros_comm b a]
  cases isNan a <;> cases isNan b <;> try rfl
  cases hmixed : mixedZeros a b with
  | true => rfl
  | false =>
    obtain rfl | horder := eq_or_less_eq_not_greater hmixed
    · rfl
    · rw [horder, greater_swap]
      cases less b a <;> rfl

/-- The four cases of FMAX are symmetrical (R71). -/
theorem fmax_comm (a b : Word) : fmax a b = fmax b a := by
  simp only [fmax, mixedZeros_comm b a]
  cases isNan a <;> cases isNan b <;> try rfl
  cases hmixed : mixedZeros a b with
  | true => rfl
  | false =>
    obtain rfl | horder := eq_or_less_eq_not_greater hmixed
    · rfl
    · rw [greater_swap b a, horder]
      cases greater a b <;> rfl

/-- Settles O33: each of the two answers its symmetrical four cases. -/
theorem minMaxCommute : Obligations.MinMaxCommute := by
  intro a b c s
  exact ⟨by rw [exec_fmin, fmin_comm, exec_fmin], by rw [exec_fmax, fmax_comm, exec_fmax]⟩

/-- The native sum does not depend on the order of its operands: infinities that agree in sign are the same (R62). -/
theorem addNative_comm (a b : Word) : Rules.addNative a b = Rules.addNative b a := by
  simp only [Rules.addNative, Bool.or_comm (Rules.isNan b), Bool.and_comm (Rules.isInf b), add_comm (Rules.val b),
    eq_comm (a := Rules.sign b)]
  by_cases hs : Rules.sign a = Rules.sign b
  · cases ha : Rules.isInf a <;> cases hb : Rules.isInf b <;> try simp [hs]
    rw [eq_of_isInf ha hb hs]
  · cases Rules.isInf a <;> cases Rules.isInf b <;> simp [hs]

/-- The exclusive or of two signs does not depend on their order (R66). -/
theorem signXor_comm (a b : Word) : Rules.signXor a b = Rules.signXor b a := by
  rw [Rules.signXor, Rules.signXor]
  exact if_congr eq_comm rfl rfl

/-- The native product does not depend on the order of its operands (R66). -/
theorem mulNative_comm (a b : Word) : Rules.mulNative a b = Rules.mulNative b a := by
  simp only [Rules.mulNative, Bool.or_comm (Rules.isNan b), Bool.or_comm (Rules.isInf b), Bool.or_comm (Rules.isZero b),
    signXor_comm b, mul_comm |Rules.val b|]

/-- Settles O31: the native sum and product commute, and a NaN in either place makes them the generated NaN. -/
theorem sumAndProductCommute : Obligations.SumAndProductCommute := by
  intro a b c s
  refine ⟨?add, ?mul, fun hnan i hi => ?nan⟩
  case add => rw [faddAnswersRoundedSum, faddAnswersRoundedSum, addNative_comm]
  case mul => rw [fmulAnswersRoundedProduct, fmulAnswersRoundedProduct, mulNative_comm]
  case nan =>
    have hab : (Rules.isNan a || Rules.isNan b) = true := by rw [hnan, Bool.true_or]
    have hba : (Rules.isNan b || Rules.isNan a) = true := by rw [hnan, Bool.or_true]
    obtain ⟨hadd, hsub, hmul⟩ := exec_arith_of_nan hab c s
    obtain ⟨hadd', hsub', hmul'⟩ := exec_arith_of_nan hba c s
    fin_cases hi
    exacts [hadd, hadd', hsub, hsub', hmul, hmul']

/-! ### Subnormal results -/

/-- The flush leaves no subnormal (R54). -/
theorem isSub_flush (x : Word) : Rules.isSub (Rules.flush x) = false := by
  rw [Rules.flush]
  split_ifs with h
  · rw [Rules.isSub, expo_cat (sign_le_one x) (by decide) (by decide),
      mant_cat (sign_le_one x) (by decide) (by decide)]
    rfl
  · exact Bool.eq_false_iff.2 h

/-- A NaN is no subnormal (R34). -/
theorem isNan_of_isSub {x : Word} (h : Rules.isSub x = true) : Rules.isNan x = false := by
  obtain ⟨he, -⟩ := of_decide_eq_true h
  simp [Rules.isNan, he]

/-- Every operation with a binary32 result but FMIN and FMAX ends in the flush (R57). -/
theorem exec_of_f32 {i : Instr} (h : i.resultKind = .f32) :
    (∃ r, ∀ s, exec i s = answer (flush r) s) ∨ ∃ a b c, i = .fmin a b c ∨ i = .fmax a b c := by
  cases i with
  | fmin a b c => exact .inr ⟨a, b, c, .inl rfl⟩
  | fmax a b c => exact .inr ⟨a, b, c, .inr rfl⟩
  | fadd | fsub | fmul | ui2f | si2f | fsgnj | fsgnjn | fsgnjx | flush => exact .inl ⟨_, fun _ => rfl⟩
  | _ => cases h

/-- Without a NaN the minimum and the maximum are a zero or flushed (R70 and R71, cases 3 and 4). -/
theorem isSub_fmin_fmax_of_not_nan {a b : Word} (ha : Rules.isNan a = false) (hb : Rules.isNan b = false) :
    Rules.isSub (Rules.fmin a b) = false ∧ Rules.isSub (Rules.fmax a b) = false := by
  simp only [Rules.fmin, Rules.fmax, ha, hb, Bool.and_false, Bool.false_eq_true, if_false]
  constructor
  · split_ifs
    exacts [rfl, isSub_flush a, isSub_flush b]
  · split_ifs
    exacts [rfl, isSub_flush a, isSub_flush b]

/-- What a NaN operand leaves is a subnormal only when the other operand is that subnormal (R70, R71). -/
theorem eq_other_of_isSub {y r : Word} (hr : r = if Rules.isNan y then Config.qnanOut else y)
    (h : Rules.isSub r = true) : Rules.isSub y = true ∧ r = y := by
  subst hr
  split_ifs at h ⊢
  · cases h
  · exact ⟨h, rfl⟩

/-- A subnormal answer to a pair of operands, when a NaN leaves the other operand and no pair without a NaN gives a
subnormal, is the operand beside a NaN (R57). -/
theorem nan_operand_of_isSub {a b r : Word}
    (hleft : Rules.isNan a = true → r = if Rules.isNan b then Config.qnanOut else b)
    (hright : Rules.isNan b = true → r = if Rules.isNan a then Config.qnanOut else a)
    (hnone : Rules.isNan a = false → Rules.isNan b = false → Rules.isSub r = false) (h : Rules.isSub r = true) :
    Rules.isNan a = true ∧ Rules.isSub b = true ∧ r = b ∨ Rules.isSub a = true ∧ Rules.isNan b = true ∧ r = a := by
  cases ha : Rules.isNan a with
  | true => exact .inl ⟨rfl, eq_other_of_isSub (hleft ha) h⟩
  | false =>
    cases hb : Rules.isNan b with
    | true =>
      obtain ⟨hsub, heq⟩ := eq_other_of_isSub (hright hb) h
      exact .inr ⟨hsub, rfl, heq⟩
    | false => exact absurd h (Bool.eq_false_iff.1 (hnone ha hb))

/-- Settles O26: every other operation flushes, and FMIN and FMAX flush unless an operand is a NaN. -/
theorem subnormalOnlyFromMinMaxWithNan : Obligations.SubnormalOnlyFromMinMaxWithNan := by
  constructor
  · intro i s t hkind hexec hsub
    obtain ⟨r, hr⟩ | ⟨a, b, c, rfl | rfl⟩ := exec_of_f32 hkind
    · obtain rfl := Host.Outcome.next.inj ((hr s).symm.trans hexec)
      rw [State.withRsp_rsp, RspPort.result_data, flush_rule, isSub_flush] at hsub
      cases hsub
    · obtain rfl := Host.Outcome.next.inj ((fminFmaxAnswerByPriority a b c s).1.symm.trans hexec)
      exact ⟨a, b, c, .inl rfl, nan_operand_of_isSub (fun h => (fmin_fmax_of_nan_left h b).1)
        (fun h => (fmin_fmax_of_nan_right h a).1) (fun ha hb => (isSub_fmin_fmax_of_not_nan ha hb).1) hsub⟩
    · obtain rfl := Host.Outcome.next.inj ((fminFmaxAnswerByPriority a b c s).2.symm.trans hexec)
      exact ⟨a, b, c, .inr rfl, nan_operand_of_isSub (fun h => (fmin_fmax_of_nan_left h b).2)
        (fun h => (fmin_fmax_of_nan_right h a).2) (fun ha hb => (isSub_fmin_fmax_of_not_nan ha hb).2) hsub⟩
  · intro n x c s hnan hsub
    have hexec (a b : Word) := fminFmaxAnswerByPriority a b c s
    simp [hexec, fmin_fmax_of_nan_left hnan, fmin_fmax_of_nan_right hnan, isNan_of_isSub hsub]

end Sys2Proof.Proofs
end

section
/-! PROOFS. What rounding comes to: a magnitude is rounded to the nearest whole number of quanta, so to the nearest
representable magnitude, and a representable one to itself; the statements O23 and O24. -/

namespace Sys2Proof.Proofs

open Sys2Proof Sys2Proof.Machine Sys2Proof.Laws

/-! ### Rounding to quanta -/

/-- `u / den` units round to `R` quanta of `2^k` units (R53), as `roundRne_spec` has it. -/
structure Rounded (u den R k : ℕ) : Prop where
  /-- a rounded magnitude has at most 24 bits, or is the first of the next binade -/
  le : R ≤ 2 ^ 24
  /-- all of them where the quantum is not the smallest -/
  full : k = 0 ∨ 2 ^ 23 ≤ R
  /-- the magnitude is not below the binade of the quantum -/
  binade_le : k = 0 ∨ 2 ^ (23 + k) * den ≤ u
  /-- the magnitude is not above the binade of the quantum -/
  lt_binade : u < 2 ^ (24 + k) * den
  /-- the rounded magnitude is at most half a quantum above -/
  above : 2 * (R * 2 ^ k * den) ≤ 2 * u + 2 ^ k * den
  /-- the rounded magnitude is at most half a quantum below -/
  below : 2 * u ≤ 2 * (R * 2 ^ k * den) + 2 ^ k * den
  /-- half a quantum away it is even -/
  tie : 2 * (R * 2 ^ k * den) = 2 * u + 2 ^ k * den ∨ 2 * u = 2 * (R * 2 ^ k * den) + 2 ^ k * den → R % 2 = 0

/-- No quanta are packed as the zero (R53). -/
theorem packMag_zero (s : Bool) : packMag s (0 * 2 ^ 0) = zeroOf s := by cases s <;> decide +kernel

/-- `2^23` units are packed as the smallest normal (R53). -/
theorem packMag_smallest_normal (s : Bool) : packMag s (2 ^ 23 * 2 ^ 0) = Rules.cat s.toNat 1 0 := by
  cases s <;> decide +kernel

/-- `round_rne` packs a rounded magnitude; zero is no exception (R53). -/
theorem exists_rounded (s : Bool) (num : ℕ) {den : ℕ} (hd : 0 < den) :
    ∃ R k, roundRne s num den = packMag s (R * 2 ^ k) ∧ Rounded (num * scale) den R k := by
  rcases Nat.eq_zero_or_pos num with rfl | hpos
  · exact ⟨0, 0, (if_pos rfl).trans (packMag_zero s).symm, by decide, .inl rfl, .inl rfl, by omega, by omega, by omega,
      fun _ => rfl⟩
  · obtain ⟨R, k, hpack, hle, hfull, hbinade, hlt, habove, hbelow, htie⟩ := roundRne_spec s hd hpos.ne'
    exact ⟨R, k, hpack, hle, hfull, hbinade, hlt, habove, hbelow, htie⟩

namespace Rounded

variable {u den R k : ℕ}

/-- Whole numbers of quanta that differ do so by a quantum at least. -/
theorem eq_or_quantum_apart {v : ℕ} (hv : 2 ^ k ∣ v) (R den : ℕ) :
    R * 2 ^ k = v ∨ R * 2 ^ k * den + 2 ^ k * den ≤ v * den ∨ v * den + 2 ^ k * den ≤ R * 2 ^ k * den := by
  obtain ⟨j, rfl⟩ := hv
  rw [mul_comm _ j, ← Nat.add_mul, ← Nat.add_mul, ← Nat.succ_mul, ← Nat.succ_mul]
  rcases lt_trichotomy R j with hlt | rfl | hgt
  · exact .inr (.inl (Nat.mul_le_mul_right _ (Nat.mul_le_mul_right _ hlt)))
  · exact .inl rfl
  · exact .inr (.inr (Nat.mul_le_mul_right _ (Nat.mul_le_mul_right _ hgt)))

/-- A whole number of quanta that is not below the magnitude is not below the rounded one. -/
theorem le_of_le (h : Rounded u den R k) (hd : 0 < den) {v : ℕ} (hv : 2 ^ k ∣ v) (hle : u ≤ v * den) :
    R * 2 ^ k ≤ v := by
  have hq : 0 < 2 ^ k * den := by positivity
  have habove := h.above
  refine Nat.le_of_mul_le_mul_right ?_ hd
  rcases eq_or_quantum_apart hv R den with rfl | hlt | hgt <;> omega

/-- How far `v` units are from `u / den` units, times `den`. -/
def error (u den v : ℕ) : ℕ := ((v * den : ℕ) - (u : ℕ) : ℤ).natAbs

/-- No whole number of quanta is nearer than the rounded magnitude, and when another is equally near the rounded one is
even (R51). -/
theorem error_le_of_dvd (h : Rounded u den R k) {v : ℕ} (hv : 2 ^ k ∣ v) :
    error u den (R * 2 ^ k) ≤ error u den v ∧
      (error u den (R * 2 ^ k) = error u den v → v ≠ R * 2 ^ k → R % 2 = 0) := by
  have habove := h.above
  have hbelow := h.below
  have htie := h.tie
  unfold error
  rcases eq_or_quantum_apart hv R den with rfl | hlt | hgt
  · exact ⟨le_rfl, fun _ hne => absurd rfl hne⟩
  · omega
  · omega

/-- A magnitude below the binade is further away than the first of the binade (R50). -/
theorem error_lt_of_lt_binade (h : Rounded u den R k) (hd : 0 < den) (hk : k ≠ 0) {v : ℕ} (hv : v < 2 ^ (23 + k)) :
    error u den (R * 2 ^ k) < error u den v := by
  have hbinade : 2 ^ (23 + k) * den ≤ u := h.binade_le.resolve_left hk
  have hfirst := (h.error_le_of_dvd (pow_dvd_pow 2 (Nat.le_add_left k 23))).1
  have hlt : v * den < 2 ^ (23 + k) * den := Nat.mul_lt_mul_of_pos_right hv hd
  unfold error at *
  omega

/-- No representable magnitude is nearer than the rounded one, and when another is equally near the rounded one is even
(R53). -/
theorem error_le_mag (h : Rounded u den R k) (hd : 0 < den) (y : Word) :
    error u den (R * 2 ^ k) ≤ error u den (mag y) ∧
      (error u den (R * 2 ^ k) = error u den (mag y) → mag y ≠ R * 2 ^ k → R % 2 = 0) := by
  by_cases hdvd : 2 ^ k ∣ mag y
  · exact h.error_le_of_dvd hdvd
  · have hk : k ≠ 0 := by
      rintro rfl
      exact hdvd (one_dvd _)
    have hlt := h.error_lt_of_lt_binade hd hk ((mag_multiple y k).resolve_right hdvd)
    exact ⟨hlt.le, fun heq => absurd heq hlt.ne⟩

/-- A whole number `v` of units is rounded to itself when the rounded magnitude is no further away than `v` is. -/
theorem eq_of_error_le (hd : 0 < den) {v : ℕ} (hle : error u den (R * 2 ^ k) ≤ error u den v) (hv : v * den = u) :
    R * 2 ^ k = v := by
  refine Nat.eq_of_mul_eq_mul_right hd ?_
  unfold error at hle
  omega

/-- Below `2^128 - 2^103` the rounded magnitude is below `2^128` (R53). -/
theorem lt_overflow (h : Rounded u den R k) (hu : u < (2 ^ 25 - 1) * 2 ^ 252 * den) : R * 2 ^ k < 2 ^ 24 * 2 ^ 253 := by
  have hk : k ≤ 253 := by
    by_contra hk
    have hbinade := h.binade_le.resolve_left (by omega)
    have hpow : 2 ^ 23 * 2 ^ 254 * den ≤ 2 ^ (23 + k) * den := by
      rw [pow_add]
      exact Nat.mul_le_mul_right _ (Nat.mul_le_mul_left _ (Nat.pow_le_pow_right (by decide) (by omega)))
    omega
  rcases Nat.lt_or_ge k 253 with hlt | hge
  · calc R * 2 ^ k ≤ 2 ^ 24 * 2 ^ 252 := Nat.mul_le_mul h.le (Nat.pow_le_pow_right (by decide) (by omega))
      _ < 2 ^ 24 * 2 ^ 253 := by decide
  · obtain rfl : k = 253 := by omega
    have habove := h.above
    have hR : R ≠ 2 ^ 24 := by
      rintro rfl
      omega
    have := h.le
    omega

/-- From `2^128 - 2^103` on the rounded magnitude is `2^128` at least (R53). -/
theorem overflow_le (h : Rounded u den R k) (hd : 0 < den) (hu : (2 ^ 25 - 1) * 2 ^ 252 * den ≤ u) :
    2 ^ 24 * 2 ^ 253 ≤ R * 2 ^ k := by
  have hk : 253 ≤ k := by
    by_contra hk
    have hbinade := h.lt_binade
    have hpow : 2 ^ (24 + k) * den ≤ 2 ^ 24 * 2 ^ 252 * den := by
      rw [pow_add]
      exact Nat.mul_le_mul_right _ (Nat.mul_le_mul_left _ (Nat.pow_le_pow_right (by decide) (by omega)))
    omega
  rcases Nat.lt_or_ge 253 k with hlt | hge
  · calc 2 ^ 24 * 2 ^ 253 = 2 ^ 23 * 2 ^ 254 := by decide
      _ ≤ R * 2 ^ k := Nat.mul_le_mul (h.full.resolve_left (by omega)) (Nat.pow_le_pow_right (by decide) hlt)
  · obtain rfl : k = 253 := by omega
    have hbelow := h.below
    have htie := h.tie
    have hR : ¬ R + 2 ≤ 2 ^ 24 := fun hR => by
      have := Nat.mul_le_mul_right (2 ^ 253 * den) hR
      rw [Nat.add_mul, ← mul_assoc R] at this
      omega
    have hodd : R + 1 ≠ 2 ^ 24 := fun hodd => by
      obtain rfl : R = 2 ^ 24 - 1 := by omega
      omega
    omega

end Rounded

/-! ### The rounded pattern -/

/-- The overflow bound `2^128` is `2^277` units (R53). -/
theorem overflow_units : 2 ^ 128 * scale = 2 ^ 24 * 2 ^ 253 := by norm_num [scale]

/-- The pattern of a rounded magnitude below the overflow bound is finite, has the sign asked for and that magnitude, and
an even mantissa where the number of quanta is even (R53). -/
theorem packMag_rounded (s : Bool) {u den R k : ℕ} (h : Rounded u den R k) (hlt : R * 2 ^ k < 2 ^ 24 * 2 ^ 253) :
    Rules.sign (packMag s (R * 2 ^ k)) = s.toNat ∧ Rules.expo (packMag s (R * 2 ^ k)) ≤ 254 ∧
      mag (packMag s (R * 2 ^ k)) = R * 2 ^ k ∧ (R % 2 = 0 → Rules.mant (packMag s (R * 2 ^ k)) % 2 = 0) := by
  obtain ⟨hsign, hexpo, hmag, -, heven⟩ := packMag_spec s h.le h.full (hlt.trans_eq overflow_units.symm)
  exact ⟨hsign, hexpo, hmag, heven⟩

/-- Below the overflow bound `round_rne` answers a finite pattern of the sign asked for, whose magnitude is the rounded
one (R53). -/
theorem roundRne_finite (s : Bool) {num den : ℕ} (hd : 0 < den) (h : num * scale < (2 ^ 25 - 1) * 2 ^ 252 * den) :
    ∃ R k, Rounded (num * scale) den R k ∧ Rules.sign (roundRne s num den) = s.toNat ∧
      Rules.expo (roundRne s num den) ≤ 254 ∧ mag (roundRne s num den) = R * 2 ^ k ∧
      (R % 2 = 0 → Rules.mant (roundRne s num den) % 2 = 0) := by
  obtain ⟨R, k, hpack, hround⟩ := exists_rounded s num hd
  rw [hpack]
  exact ⟨R, k, hround, packMag_rounded s hround (hround.lt_overflow h)⟩

/-- A representable magnitude is rounded to its pattern (R53). -/
theorem roundRne_of_mag {s : Bool} {num den : ℕ} (hd : 0 < den) {y : Word} (hy : Rules.expo y ≠ 255)
    (hsign : Rules.sign y = s.toNat) (hmag : mag y * den = num * scale) : roundRne s num den = y := by
  obtain ⟨R, k, hpack, hround⟩ := exists_rounded s num hd
  have hval : R * 2 ^ k = mag y := Rounded.eq_of_error_le hd (hround.error_le_mag hd y).1 hmag
  have hlt : R * 2 ^ k < 2 ^ 24 * 2 ^ 253 := by
    rw [hval, ← overflow_units]
    exact mag_lt y hy
  obtain ⟨hsign', -, hmag', -⟩ := packMag_rounded s hround hlt
  rw [hpack]
  exact eq_of_sign_mag (hsign'.trans hsign.symm) (hmag'.trans hval)

/-- The distance of a pattern's magnitude from `num / den`, as the machine counts it (R50). -/
theorem abs_val_sub_abs (x : Word) (num : ℕ) {den : ℕ} (hd : 0 < den) :
    |(|Rules.val x| - (num : ℚ) / den)| = (Rounded.error (num * scale) den (mag x) : ℚ) / (den * 2 ^ 149) := by
  have hden : (0 : ℚ) < den := Nat.cast_pos.2 hd
  have hdiff : |Rules.val x| - (num : ℚ) / den =
      (((mag x * den : ℕ) - (num * scale : ℕ) : ℤ) : ℚ) / (den * 2 ^ 149) := by
    rw [abs_val_rule]
    push_cast
    rw [scale_cast]
    field_simp
  rw [hdiff, abs_div, abs_of_pos (by positivity : (0 : ℚ) < den * 2 ^ 149), Rounded.error, Nat.cast_natAbs,
    Int.cast_abs]

/-- A magnitude is not below a number of half units (R53). -/
theorem half_units_le_iff (a num : ℕ) {den : ℕ} (hd : 0 < den) :
    (a : ℚ) / 2 ^ 150 ≤ (num : ℚ) / den ↔ a * den ≤ 2 * (num * scale) := by
  have hunit : (2 : ℚ) ^ 150 = 2 * scale := by norm_num [scale]
  rw [hunit, div_le_div_iff₀ (by positivity [scale_pos]) (Nat.cast_pos.2 hd), mul_left_comm (num : ℚ)]
  exact_mod_cast Iff.rfl

/-- A magnitude is not above a number of half units (R53). -/
theorem le_half_units_iff (a num : ℕ) {den : ℕ} (hd : 0 < den) :
    (num : ℚ) / den ≤ (a : ℚ) / 2 ^ 150 ↔ 2 * (num * scale) ≤ a * den := by
  have hunit : (2 : ℚ) ^ 150 = 2 * scale := by norm_num [scale]
  rw [hunit, div_le_div_iff₀ (Nat.cast_pos.2 hd) (by positivity [scale_pos]), mul_left_comm (num : ℚ)]
  exact_mod_cast Iff.rfl

/-- The overflow threshold of `round_rne`, in units (R53). -/
theorem overflow_threshold_le_iff (num : ℕ) {den : ℕ} (hd : 0 < den) :
    2 ^ 128 - 2 ^ 103 ≤ (num : ℚ) / den ↔ (2 ^ 25 - 1) * 2 ^ 252 * den ≤ num * scale := by
  have hthreshold : (2 : ℚ) ^ 128 - 2 ^ 103 = (((2 ^ 25 - 1) * 2 ^ 253 : ℕ) : ℚ) / 2 ^ 150 := by norm_num
  rw [hthreshold, half_units_le_iff _ _ hd]
  omega

/-- Settles O23: the rounded magnitude is nearest in units, and the threshold is where it reaches the overflow bound. -/
theorem roundRneIsNearestTiesToEven : Obligations.RoundRneIsNearestTiesToEven := by
  intro s num den hd
  refine ⟨fun hq => ?overflow, fun hq => ?finite⟩
  case overflow =>
    obtain ⟨R, k, hpack, hround⟩ := exists_rounded s num hd
    rw [hpack]
    exact packMag_overflow s (overflow_units.trans_le (hround.overflow_le hd ((overflow_threshold_le_iff num hd).1 hq)))
  case finite =>
    have hu : num * scale < (2 ^ 25 - 1) * 2 ^ 252 * den :=
      not_le.1 fun h => hq.not_ge ((overflow_threshold_le_iff num hd).2 h)
    obtain ⟨R, k, hround, hsign, hexpo, hmag, heven⟩ := roundRne_finite s hd hu
    refine ⟨decide_eq_true (by omega), hsign, fun y _ => ?_⟩
    obtain ⟨hle, htie⟩ := hround.error_le_mag hd y
    have hpos : (0 : ℚ) < den * 2 ^ 149 := by positivity
    rw [abs_val_sub_abs _ _ hd, abs_val_sub_abs _ _ hd, div_le_div_iff_of_pos_right hpos, div_left_inj' hpos.ne',
      Nat.cast_le, Nat.cast_inj, hmag]
    refine ⟨hle, fun heq hne => heven (htie heq fun hy => hne ?_)⟩
    rw [abs_val_rule, abs_val_rule, hmag, hy]

/-! ### The underflow edges -/

/-- Below the smallest normal the quantum is one unit (R53). -/
theorem Rounded.quantum_eq_one {u den R k : ℕ} (h : Rounded u den R k) (hu : u < 2 ^ 23 * den) : k = 0 := by
  refine h.binade_le.resolve_right fun hle => ?_
  have hpow : 2 ^ 23 * den ≤ 2 ^ (23 + k) * den := Nat.mul_le_mul_right _ (Nat.pow_le_pow_right (by decide) (by omega))
  omega

/-- At most half a unit is rounded to zero: one is odd (R53). -/
theorem Rounded.eq_zero {u den R k : ℕ} (h : Rounded u den R k) (hd : 0 < den) (hu : 2 * u ≤ den) :
    R = 0 ∧ k = 0 := by
  obtain rfl := h.quantum_eq_one (by omega)
  have habove := h.above
  have htie := h.tie
  rw [pow_zero, mul_one, one_mul] at habove htie
  have hR : ¬ 2 ≤ R := fun hR => by
    have := Nat.mul_le_mul_right den hR
    omega
  have hone : R ≠ 1 := fun hR => by
    rw [hR] at habove htie
    omega
  omega

/-- From half a unit below the smallest normal on a magnitude is rounded up to it: one unit below it is odd (R53). -/
theorem Rounded.eq_smallest_normal {u den R k : ℕ} (h : Rounded u den R k) (hlow : (2 ^ 24 - 1) * den ≤ 2 * u)
    (hhigh : u < 2 ^ 23 * den) : R = 2 ^ 23 ∧ k = 0 := by
  obtain rfl := h.quantum_eq_one hhigh
  have habove := h.above
  have hbelow := h.below
  have htie := h.tie
  rw [pow_zero, mul_one, one_mul] at habove hbelow htie
  have hle : ¬ 2 ^ 23 + 1 ≤ R := fun hR => by
    have := Nat.mul_le_mul_right den hR
    omega
  have hge : ¬ R + 2 ≤ 2 ^ 23 := fun hR => by
    have := Nat.mul_le_mul_right den hR
    rw [Nat.add_mul] at this
    omega
  have hodd : R + 1 ≠ 2 ^ 23 := fun hR => by
    have : R * den + den = 2 ^ 23 * den := by rw [← hR, Nat.succ_mul]
    omega
  omega

/-- Settles O24: both edges are half a unit from a rounded magnitude, and the tie goes to the even one. -/
theorem roundRneUnderflowEdges : Obligations.RoundRneUnderflowEdges := by
  intro s num den hd
  obtain ⟨R, k, hpack, hround⟩ := exists_rounded s num hd
  refine ⟨fun hq => ?zero, fun hlow hhigh => ?normal⟩
  case zero =>
    have hhalf : (2 : ℚ) ^ (-150 : ℤ) = ((1 : ℕ) : ℚ) / 2 ^ 150 := by norm_num
    rw [hhalf, le_half_units_iff _ _ hd, one_mul] at hq
    obtain ⟨rfl, rfl⟩ := hround.eq_zero hd hq
    rw [hpack, packMag_zero, zeroOf_rule]
  case normal =>
    have hedge : (2 : ℚ) ^ (-126 : ℤ) - 2 ^ (-150 : ℤ) = ((2 ^ 24 - 1 : ℕ) : ℚ) / 2 ^ 150 := by norm_num
    have hnormal : (2 : ℚ) ^ (-126 : ℤ) = ((2 ^ 24 : ℕ) : ℚ) / 2 ^ 150 := by norm_num
    rw [hedge, half_units_le_iff _ _ hd] at hlow
    rw [hnormal, ← not_le, half_units_le_iff _ _ hd] at hhigh
    obtain ⟨rfl, rfl⟩ := hround.eq_smallest_normal hlow (by omega)
    rw [hpack, packMag_smallest_normal]
    cases s <;> decide

end Sys2Proof.Proofs
end

section
/-! PROOFS. Integers and subnormals through the rounding: an integer is rounded to an integer, so the conversion back
finds it again, and a doubled subnormal is representable; the statements O27, O39 and O41. -/

namespace Sys2Proof.Proofs

open Sys2Proof Sys2Proof.Machine Sys2Proof.Laws

/-! ### Values -/

/-- The machine's sign bit is the one the rules count (R33). -/
theorem sign_of_rule {x : Word} {t : Bool} (h : Rules.sign x = t.toNat) : sign x = t := by
  rw [sign_rule] at h
  cases t with
  | true => exact Bool.toNat_eq_one.1 h
  | false => exact Bool.toNat_eq_zero.1 h

/-- A value whose sign is 0 is its magnitude (R50). -/
theorem val_of_sign_zero {x : Word} (h : Rules.sign x = 0) : Rules.val x = (mag x : ℚ) / 2 ^ 149 := by
  rw [val_rule, scaled, sign_of_rule (t := false) h]
  rfl

/-- A pattern of an integral magnitude passes the flush: a subnormal is less than 1 (R54). -/
theorem flush_of_scale_dvd_mag {x : Word} (h : scale ∣ mag x) : flush x = x := by
  have hsub : ¬ Rules.isSub x = true := fun hsub => by
    obtain ⟨hexpo, hmant⟩ := of_decide_eq_true hsub
    have hlt : mag x < 2 ^ 23 := (mag_lt_two_pow_iff x).2 hexpo
    have hne : mag x ≠ 0 := fun hzero => hmant (of_decide_eq_true ((mag_eq_zero_iff x).1 hzero)).2
    have := Nat.le_of_dvd (Nat.pos_of_ne_zero hne) h
    rw [scale] at this
    omega
  rw [flush_rule, Rules.flush, if_neg hsub]

/-! ### Integers -/

/-- A quantum of at most `2^149` units divides an integer. -/
theorem two_pow_dvd_mul_scale {k : ℕ} (n : ℕ) (hk : k ≤ 149) : 2 ^ k ∣ n * scale :=
  Dvd.dvd.mul_left (pow_dvd_pow 2 hk) n

/-- A magnitude that is a whole number of quanta is rounded to itself (R53). -/
theorem Rounded.eq_of_dvd {u R k : ℕ} (h : Rounded u 1 R k) (hdvd : 2 ^ k ∣ u) : R * 2 ^ k = u :=
  Rounded.eq_of_error_le Nat.one_pos (h.error_le_of_dvd hdvd).1 (mul_one u)

/-- The quantum of a magnitude of at most `n` bits (R53). -/
theorem Rounded.quantum_le {u R k n : ℕ} (h : Rounded u 1 R k) (hu : u ≤ 2 ^ n) : k ≤ n - 23 := by
  rcases h.binade_le with rfl | hle
  · exact Nat.zero_le _
  · have := (Nat.pow_le_pow_iff_right (by decide : 1 < 2)).1 ((mul_one _).symm.trans_le (hle.trans hu))
    omega

/-- An integer is rounded to an integer (R53). -/
theorem Rounded.scale_dvd {n R k : ℕ} (h : Rounded (n * scale) 1 R k) : scale ∣ R * 2 ^ k := by
  rcases Nat.le_total k 149 with hk | hk
  · rw [h.eq_of_dvd (two_pow_dvd_mul_scale n hk)]
    exact Dvd.intro_left n rfl
  · exact Dvd.dvd.mul_left (pow_dvd_pow 2 hk) R

/-- An integer of a converter's range is rounded to a finite pattern of its sign and of an integral magnitude, which
passes the flush (R82, R83). -/
theorem intToFloat_rounded {n : ℤ} (h : n.natAbs ≤ 2 ^ 32) :
    ∃ R k, Rounded (n.natAbs * scale) 1 R k ∧ Rules.sign (intToFloat n) = (decide (n < 0)).toNat ∧
      Rules.expo (intToFloat n) ≤ 254 ∧ mag (intToFloat n) = R * 2 ^ k := by
  have hu : n.natAbs * scale < (2 ^ 25 - 1) * 2 ^ 252 * 1 := by
    rw [scale]
    omega
  obtain ⟨R, k, hround, hsign, hexpo, hmag, -⟩ := roundRne_finite (decide (n < 0)) Nat.one_pos hu
  have hflush : intToFloat n = roundRne (decide (n < 0)) n.natAbs 1 :=
    flush_of_scale_dvd_mag (hmag ▸ hround.scale_dvd)
  rw [hflush]
  exact ⟨R, k, hround, hsign, hexpo, hmag⟩

/-- An integer of at most `2^24` is a whole number of its quanta (R82). -/
theorem Rounded.eq_of_le_two_pow {n R k : ℕ} (h : Rounded (n * scale) 1 R k) (hn : n ≤ 2 ^ 24) :
    R * 2 ^ k = n * scale := by
  have hu : n * scale ≤ 2 ^ 173 := by
    rw [scale]
    omega
  apply h.eq_of_dvd
  rcases Nat.lt_or_ge 149 k with hk | hk
  · have hle := h.binade_le.resolve_left (by omega)
    obtain rfl : k = 150 := by
      have := h.quantum_le hu
      omega
    have heq : n * scale = 2 ^ 173 := by omega
    rw [heq]
    exact pow_dvd_pow 2 (by decide)
  · exact two_pow_dvd_mul_scale n hk

/-- Settles O39: an unsigned integer has sign 0 and is below the overflow bound, and up to `2^24` it is representable. -/
theorem ui2fExactAndFinite : Obligations.Ui2fExactAndFinite := by
  intro x b c s
  have hx := toNat_lt x
  obtain ⟨R, k, hround, hsign, hexpo, hmag⟩ := intToFloat_rounded (n := uint x) (by rw [uint]; omega)
  have hsign0 : Rules.sign (intToFloat (uint x)) = 0 := by
    rw [hsign, decide_eq_false (Int.natCast_nonneg _).not_gt]
    rfl
  refine ⟨_, (exec_ui2f x b c s).trans (answer_eq _ s), decide_eq_true (by omega), hsign0, fun hle => ?_⟩
  rw [val_of_sign_zero hsign0, hmag, hround.eq_of_le_two_pow hle, Nat.cast_mul, scale_cast,
    mul_div_cancel_right₀ _ (by positivity)]
  rfl

/-! ### The round trip -/

/-- At most `2^31` is rounded to at most `2^31` (R84). -/
theorem Rounded.le_two_pow_31 {n R k : ℕ} (h : Rounded (n * scale) 1 R k) (hn : n ≤ 2 ^ 31) :
    R * 2 ^ k ≤ 2 ^ 31 * scale := by
  have hu : n * scale ≤ 2 ^ 180 := (Nat.mul_le_mul_right scale hn).trans_eq (by decide)
  have hk : k ≤ 180 := (h.quantum_le hu).trans (by decide)
  exact h.le_of_le Nat.one_pos (pow_dvd_pow 2 hk) (hu.trans_eq (mul_one _).symm)

/-- Below `2^31 - 64` the rounded integer stays below `2^31`: the quantum is at most 128 (R84). -/
theorem Rounded.lt_two_pow_31 {n R k : ℕ} (h : Rounded (n * scale) 1 R k) (hn : n < 2 ^ 31 - 64) :
    R * 2 ^ k < 2 ^ 31 * scale := by
  have habove := h.above
  have hk : k ≤ 156 := by
    by_contra hk
    have hle := h.binade_le.resolve_left (by omega)
    have hpow : 2 ^ 180 ≤ 2 ^ (23 + k) := Nat.pow_le_pow_right (by decide) (by omega)
    rw [scale] at hle
    omega
  have hpow : 2 ^ k ≤ 2 ^ 156 := Nat.pow_le_pow_right (by decide) hk
  rw [scale] at habove ⊢
  omega

/-- No integer but zero is rounded to zero (R84). -/
theorem Rounded.pos_of_pos {n R k : ℕ} (h : Rounded (n * scale) 1 R k) (hn : 0 < n) : 0 < R * 2 ^ k := by
  have hbelow := h.below
  rw [scale] at hbelow
  rcases h.full with rfl | hR
  · omega
  · exact Nat.mul_pos (by omega) (Nat.two_pow_pos k)

/-- The value of a finite pattern whose magnitude is an integer, sign included (R50). -/
theorem scaled_of_integral {x : Word} {t : Bool} {w : ℕ} (hsign : Rules.sign x = t.toNat) (hmag : mag x = w * scale) :
    scaled x = (if t then -(w : ℤ) else w) * scale := by
  rw [scaled, sign_of_rule hsign, hmag]
  cases t <;> simp

/-- A finite pattern of an integral value is what that integer is converted to (R83). -/
theorem intToFloat_of_scaled {x : Word} {v : ℤ} (hexpo : Rules.expo x ≤ 254)
    (hsign : Rules.sign x = (decide (v < 0)).toNat) (hmag : mag x = v.natAbs * scale) : intToFloat v = x := by
  rw [intToFloat, roundRne_of_mag Nat.one_pos (by omega) hsign ((mul_one _).trans hmag)]
  exact flush_of_scale_dvd_mag (hmag ▸ Dvd.intro_left _ rfl)

/-- A signed integer below `2^31 - 64` is rounded to a signed integer, whose own conversion gives the same pattern
(R84). -/
theorem exists_int_of_intToFloat {z : ℤ} (hlow : -2 ^ 31 ≤ z) (hhigh : z < 2 ^ 31 - 64) :
    ∃ v : ℤ, -2 ^ 31 ≤ v ∧ v ≤ 2 ^ 31 - 1 ∧ Rules.expo (intToFloat z) ≤ 254 ∧
      scaled (intToFloat z) = v * scale ∧ intToFloat v = intToFloat z := by
  obtain ⟨R, k, hround, hsign, hexpo, hmag⟩ := intToFloat_rounded (n := z) (by omega)
  obtain ⟨w, hw⟩ := exists_eq_mul_left_of_dvd hround.scale_dvd
  rw [hw] at hmag
  rcases lt_or_ge z 0 with hz | hz
  · have hle : w ≤ 2 ^ 31 :=
      Nat.le_of_mul_le_mul_right (hw.symm.trans_le (hround.le_two_pow_31 (by omega))) scale_pos
    have hpos : 0 < w := Nat.pos_of_mul_pos_right (hw ▸ hround.pos_of_pos (by omega))
    rw [decide_eq_true hz] at hsign
    refine ⟨-w, by omega, by omega, hexpo, scaled_of_integral hsign hmag, intToFloat_of_scaled hexpo ?_ ?_⟩
    · rw [hsign, decide_eq_true (by omega)]
    · rw [hmag, Int.natAbs_neg, Int.natAbs_natCast]
  · have hlt : w < 2 ^ 31 := Nat.lt_of_mul_lt_mul_right (hw.symm.trans_lt (hround.lt_two_pow_31 (by omega)))
    rw [decide_eq_false hz.not_gt] at hsign
    refine ⟨w, by omega, by omega, hexpo, scaled_of_integral hsign hmag, intToFloat_of_scaled hexpo ?_ ?_⟩
    · rw [hsign, decide_eq_false (by omega)]
    · rw [hmag, Int.natAbs_natCast]

/-- An integral value is its own nearest integer (R51). -/
theorem rneInt_mul_scale (v : ℤ) : rneInt (v * scale) scale = v := by
  simp [rneInt, scale]

/-- An integer of the signed range is read back from its pattern (R41). -/
theorem sint_toBits32 {v : ℤ} (hlow : -2 ^ 31 ≤ v) (hhigh : v ≤ 2 ^ 31 - 1) : Rules.sint (toBits32 v) = v := by
  rw [← sint_rule, sint, toBits32]
  exact BitVec.toInt_ofInt_eq_self (by decide) hlow (by omega)

/-- F2SI of a finite pattern of an integral value in range is that integer (R81). -/
theorem floatToInt_of_scaled {x : Word} {v : ℤ} (hexpo : Rules.expo x ≤ 254) (hscaled : scaled x = v * scale)
    (hlow : -2 ^ 31 ≤ v) (hhigh : v ≤ 2 ^ 31 - 1) : floatToInt .f2si (-2 ^ 31) (2 ^ 31 - 1) x = toBits32 v := by
  obtain ⟨hnan, hinf⟩ := not_nan_not_inf_of_expo (x := x) (by omega)
  rw [floatToInt, isNan_rule, isInf_rule, hnan, hinf, hscaled, rneInt_mul_scale]
  exact if_pos (And.intro hlow hhigh)

/-- Settles O41: the first conversion gives an integral value, which F2SI and the second conversion keep. -/
theorem signedRoundTripIsStable : Obligations.SignedRoundTripIsStable := by
  intro n b c s hn
  have hlow : -2 ^ 31 ≤ Rules.sint n := by
    have := toNat_lt n
    rw [Rules.sint]
    split_ifs <;> omega
  obtain ⟨v, hvlow, hvhigh, hexpo, hscaled, hback⟩ := exists_int_of_intToFloat hlow hn
  have hsint := sint_toBits32 hvlow hvhigh
  refine ⟨intToFloat (Rules.sint n), toBits32 v, ?_, ?_, ?_, ?_⟩
  · rw [exec_si2f, answer_eq, sint_rule]
  · rw [exec_f2si, answer_eq, floatToInt_of_scaled hexpo hscaled hvlow hvhigh]
  · rw [exec_si2f, answer_eq, sint_rule, hsint, hback]
  · rw [hsint, val_rule, hscaled, Int.cast_mul, Int.cast_natCast, scale_cast, mul_div_cancel_right₀ _ (by positivity)]

/-! ### Subnormal operands -/

/-- The order of patterns that are no infinities is the order of their values (R75). -/
theorem less_of_not_isInf {a b : Word} (ha : Rules.isInf a = false) (hb : Rules.isInf b = false) :
    less a b = decide (scaled a < scaled b) := by
  rw [less, ext_of_not_isInf ha, ext_of_not_isInf hb]
  rfl

/-- A subnormal's exponent field is 0 and its mantissa is not (R34). -/
theorem fields_of_isSub {x : Word} (h : Rules.isSub x = true) : Rules.expo x = 0 ∧ Rules.mant x ≠ 0 :=
  of_decide_eq_true h

/-- A subnormal's magnitude is its mantissa, unflushed (R50, R58). -/
theorem mag_of_isSub {x : Word} (h : Rules.isSub x = true) : mag x = Rules.mant x := by
  rw [mag, expo_rule, mant_rule, if_pos (fields_of_isSub h).1]

/-- A subnormal is no infinity and no zero (R34). -/
theorem isInf_isZero_of_isSub {x : Word} (h : Rules.isSub x = true) :
    Rules.isInf x = false ∧ Rules.isZero x = false := by
  obtain ⟨he, hm⟩ := fields_of_isSub h
  simp [Rules.isInf, Rules.isZero, he, hm]

/-- A subnormal is on its own side of zero (R50, R58). -/
theorem scaled_pos_iff_of_isSub {x : Word} (h : Rules.isSub x = true) :
    (0 < scaled x ↔ Rules.sign x = 0) ∧ (scaled x < 0 ↔ Rules.sign x = 1) := by
  have hmag : 0 < mag x := by
    rw [mag_of_isSub h]
    exact Nat.pos_of_ne_zero (fields_of_isSub h).2
  rw [scaled, sign_rule]
  cases sign x <;> simp <;> omega

/-- A subnormal against plus zero: less on its own side and never equal (R58, R75). -/
theorem less_zero_of_isSub {x : Word} (h : Rules.isSub x = true) :
    less 0x00000000#32 x = decide (Rules.sign x = 0) ∧ less x 0x00000000#32 = decide (Rules.sign x = 1) := by
  obtain ⟨hinf, -⟩ := isInf_isZero_of_isSub h
  obtain ⟨hpos, hneg⟩ := scaled_pos_iff_of_isSub h
  have hzero : scaled 0x00000000#32 = 0 := by decide
  rw [less_of_not_isInf rfl hinf, less_of_not_isInf hinf rfl, hzero, decide_eq_decide.2 hpos, decide_eq_decide.2 hneg]
  exact ⟨rfl, rfl⟩

/-- The product of a subnormal and plus infinity is the infinity of its sign: the subnormal counts as no zero
(R58, R66). -/
theorem mulNative_inf_of_isSub {x : Word} (h : Rules.isSub x = true) :
    Rules.mulNative x 0x7F800000#32 = Rules.cat (Rules.sign x) 255 0 := by
  have hnan : (Rules.isNan x || Rules.isNan 0x7F800000#32) = false := by rw [isNan_of_isSub h]; rfl
  have hinf : (Rules.isInf x || Rules.isInf 0x7F800000#32) = true := Bool.or_true _
  have hzero : (Rules.isZero x || Rules.isZero 0x7F800000#32) = false := by rw [(isInf_isZero_of_isSub h).2]; rfl
  have hxor : Rules.signXor x 0x7F800000#32 = Rules.sign x := by
    have hplus : Rules.sign 0x7F800000#32 = 0 := by decide
    rw [Rules.signXor, hplus]
    obtain hs | hs := sign_cases x <;> rw [hs] <;> rfl
  simp only [Rules.mulNative, hnan, hinf, hzero, hxor, Bool.false_eq_true, if_true, if_false]

/-- A finite nonzero pattern added to itself is twice its magnitude under its sign, rounded (R62). -/
theorem addNative_self {x : Word} (hx : Rules.expo x ≠ 255) (hmag : mag x ≠ 0) :
    addNative x x = roundRne (sign x) (2 * mag x) scale := by
  obtain ⟨hnan, hinf⟩ := not_nan_not_inf_of_expo hx
  have habs : (scaled x + scaled x).natAbs = 2 * mag x := by
    rw [scaled]
    split_ifs <;> omega
  rw [addNative, isNan_rule, isInf_rule, hnan, hinf]
  simp only [Bool.or_self, Bool.and_self, Bool.false_eq_true, if_false, habs]
  cases hs : sign x with
  | true =>
    have hneg : scaled x = -(mag x : ℤ) := if_pos hs
    rw [if_neg (by omega), if_neg (by omega)]
  | false =>
    have hpos : scaled x = mag x := if_neg (Bool.eq_false_iff.1 hs)
    rw [if_neg (by omega), if_pos (by omega)]

/-- The pattern of a doubled subnormal: the mantissa's carry is the exponent of the smallest normals (R33). -/
def doubled (x : Word) : Word :=
  if 2 ^ 23 ≤ 2 * Rules.mant x then Rules.cat (Rules.sign x) 1 (2 * Rules.mant x - 2 ^ 23)
  else Rules.cat (Rules.sign x) 0 (2 * Rules.mant x)

/-- The doubled subnormal is finite, has the subnormal's sign and twice its magnitude (R50). -/
theorem doubled_fields {x : Word} (h : Rules.isSub x = true) :
    Rules.expo (doubled x) ≠ 255 ∧ Rules.sign (doubled x) = Rules.sign x ∧ mag (doubled x) = 2 * mag x := by
  have hs := sign_le_one x
  have hm := mant_lt x
  rw [mag_of_isSub h, mag, expo_rule, mant_rule, doubled]
  split_ifs with hcarry hexpo hexpo
  · rw [expo_cat hs (by decide) (by omega)] at hexpo
    cases hexpo
  · rw [expo_cat hs (by decide) (by omega), sign_cat hs (by decide) (by omega), mant_cat hs (by decide) (by omega)]
    omega
  · rw [expo_cat hs (by decide) (by omega), sign_cat hs (by decide) (by omega), mant_cat hs (by decide) (by omega)]
    omega
  · exact absurd (expo_cat hs (by decide) (by omega)) hexpo

/-- A subnormal added to itself is doubled exactly: the doubled value is representable (R58, R62). -/
theorem addNative_self_of_isSub {x : Word} (h : Rules.isSub x = true) : addNative x x = doubled x := by
  obtain ⟨hexpo, hmant⟩ := fields_of_isSub h
  obtain ⟨hfinite, hsign, hmag⟩ := doubled_fields h
  rw [addNative_self (by omega) (by rwa [mag_of_isSub h])]
  exact roundRne_of_mag scale_pos hfinite (hsign.trans (sign_rule x)) (by rw [hmag])

/-- A doubled subnormal passes the flush when it is a normal and is otherwise the zero of its sign (R54). -/
theorem flush_doubled {x : Word} (h : Rules.isSub x = true) :
    flush (doubled x) = if 2 ^ 23 ≤ 2 * Rules.mant x then Rules.cat (Rules.sign x) 1 (2 * Rules.mant x - 2 ^ 23)
      else Rules.cat (Rules.sign x) 0 0 := by
  have hs := sign_le_one x
  have hm := mant_lt x
  have hne := (fields_of_isSub h).2
  rw [flush_rule, Rules.flush, Rules.isSub, doubled]
  split_ifs with hcarry hsub hsub
  · rw [expo_cat hs (by decide) (by omega)] at hsub
    simp at hsub
  · rfl
  · rw [sign_cat hs (by decide) (by omega)]
  · rw [expo_cat hs (by decide) (by omega), mant_cat hs (by decide) (by omega)] at hsub
    exact absurd (decide_eq_true ⟨rfl, by omega⟩) hsub

/-- Settles O27: each unit reads the subnormal's own magnitude, which is neither zero nor infinite. -/
theorem subnormalOperandsEnterUnflushed : Obligations.SubnormalOperandsEnterUnflushed := by
  intro x c s h
  have hnan := isNan_of_isSub h
  have hnan0 : Rules.isNan 0x00000000#32 = false := by decide
  obtain ⟨hright, hleft⟩ := less_zero_of_isSub h
  refine ⟨?lt, ?gt, ?eq, ?fclass, ?mul, ?add⟩
  case lt =>
    rw [exec_flt, answer_eq, ordered_of_not_nan hnan0 hnan, hright]
    simp only [decide_eq_true_eq]
  case gt =>
    rw [exec_flt, answer_eq, ordered_of_not_nan hnan hnan0, hleft]
    simp only [decide_eq_true_eq]
  case eq =>
    rw [exec_feq, answer_eq, ordered_of_not_nan hnan hnan0, greater_swap, hright, hleft]
    obtain hs | hs := sign_cases x <;> rw [hs] <;> rfl
  case fclass =>
    rw [fclassAnswersTheTable, fclass_of_sub h]
    obtain hs | hs := sign_cases x <;> rw [hs] <;> rfl
  case mul =>
    rw [fmulAnswersRoundedProduct, mulNative_inf_of_isSub h,
      flush_of_expo (expo_cat (sign_le_one x) (by decide) (by decide))]
  case add => rw [exec_fadd, answer_eq, addNative_self_of_isSub h, flush_doubled h]

end Sys2Proof.Proofs
end

section
/-! PROOFS. The reference square root: the bits of the integer root, the number of quanta decided by squares, and why no
representable value has its root midway between two quanta; the statement O47. -/

namespace Sys2Proof.Proofs

open Sys2Proof Sys2Proof.Machine Sys2Proof.Laws

/-! ### The integer square root -/

/-- From bit `b - 1` down, the root of a number between two squares `2^b` apart is found (R107). -/
theorem isqrtFrom_spec (n b known : ℕ) (hle : known * known ≤ n) (hlt : n < (known + 2 ^ b) * (known + 2 ^ b)) :
    isqrtFrom n b known = Nat.sqrt n := by
  induction b generalizing known with
  | zero =>
    rw [isqrtFrom]
    exact Nat.eq_sqrt.2 ⟨hle, hlt⟩
  | succ b ih =>
    rw [isqrtFrom]
    split_ifs with hbit
    · refine ih _ hbit ?_
      rwa [add_assoc, ← two_mul, ← pow_succ']
    · exact ih _ hle (not_le.1 hbit)

/-- The machine's integer square root is the integer square root (R107). -/
theorem isqrt_eq_sqrt (n : ℕ) : isqrt n = Nat.sqrt n := by
  refine isqrtFrom_spec n _ 0 (Nat.zero_le n) ?_
  rw [Nat.zero_add, ← pow_add]
  exact Nat.lt_log2_self.trans_le (Nat.pow_le_pow_right (by decide) (by omega))

/-! ### The number of quanta -/

/-- The root of `n` rounds to `R` quanta of `2^k` units: it is not below the binade, and it lies strictly between the
midpoints on either side of `R`, compared by squares (R107). -/
structure RootRounded (n R k : ℕ) : Prop where
  /-- a rounded root has at most 24 bits, or is the first of the next binade -/
  le : R ≤ 2 ^ 24
  /-- all of them: the quantum is never the smallest -/
  full : 2 ^ 23 ≤ R
  /-- the root is not below the binade of the quantum -/
  binade_le : 2 ^ (23 + k) * 2 ^ (23 + k) ≤ n
  /-- the root is below the midpoint above -/
  lt_above : 4 * n < (2 * R + 1) * 2 ^ k * ((2 * R + 1) * 2 ^ k)
  /-- the root is above the midpoint below -/
  below_lt : (2 * R - 1) * 2 ^ k * ((2 * R - 1) * 2 ^ k) < 4 * n

/-- A magnitude is a number of at most 24 bits, shifted (R50). -/
theorem exists_mag_eq (x : Word) : ∃ q j, q < 2 ^ 24 ∧ mag x = q * 2 ^ j := by
  have hm := mant_lt x
  rw [mag, expo_rule, mant_rule]
  split_ifs
  · exact ⟨Rules.mant x, 0, by omega, (mul_one _).symm⟩
  · exact ⟨2 ^ 23 + Rules.mant x, Rules.expo x - 1, by omega, rfl⟩

/-- No representable value's root is midway between two quanta: the odd midpoint's square has too many bits (R107). -/
theorem midpoint_ne (x : Word) {f : ℕ} (k e : ℕ) (hf : 2 ^ 23 ≤ f) :
    (2 * f + 1) * 2 ^ k * ((2 * f + 1) * 2 ^ k) ≠ mag x * 2 ^ e := by
  obtain ⟨q, j, hq, hmag⟩ := exists_mag_eq x
  intro heq
  have hsquare : (2 * f + 1) * (2 * f + 1) * 2 ^ (k + k) = q * 2 ^ (j + e) := by
    rw [pow_add, pow_add, ← mul_assoc q, ← hmag, ← heq]
    ring
  rcases Nat.lt_or_ge (k + k) (j + e) with hlt | hge
  · obtain ⟨d, hd⟩ := Nat.exists_eq_add_of_lt hlt
    have hshift : q * 2 ^ (j + e) = q * 2 ^ (d + 1) * 2 ^ (k + k) := by rw [hd]; ring
    have hroot := Nat.eq_of_mul_eq_mul_right (Nat.two_pow_pos (k + k)) (hsquare.trans hshift)
    have hodd : Odd ((2 * f + 1) * (2 * f + 1)) := (odd_two_mul_add_one f).mul (odd_two_mul_add_one f)
    have heven : Even (q * 2 ^ (d + 1)) := (even_two.pow_of_ne_zero d.succ_ne_zero).mul_left q
    exact Nat.not_even_iff_odd.2 hodd (hroot ▸ heven)
  · obtain ⟨d, hd⟩ := Nat.exists_eq_add_of_le hge
    have hshift : (2 * f + 1) * (2 * f + 1) * 2 ^ (k + k) = (2 * f + 1) * (2 * f + 1) * 2 ^ d * 2 ^ (j + e) := by
      rw [hd]; ring
    have hroot := Nat.eq_of_mul_eq_mul_right (Nat.two_pow_pos (j + e)) (hshift.symm.trans hsquare)
    have hbits : 2 ^ 24 * 2 ^ 24 ≤ (2 * f + 1) * (2 * f + 1) * 2 ^ d :=
      le_mul_of_le_of_one_le (Nat.mul_self_le_mul_self (by omega)) Nat.one_le_two_pow
    omega

/-- The whole quanta below the root (R107). -/
theorem sqrt_quanta (n k : ℕ) :
    Nat.sqrt (n / (2 ^ k * 2 ^ k)) * 2 ^ k * (Nat.sqrt (n / (2 ^ k * 2 ^ k)) * 2 ^ k) ≤ n ∧
      n < (Nat.sqrt (n / (2 ^ k * 2 ^ k)) + 1) * 2 ^ k * ((Nat.sqrt (n / (2 ^ k * 2 ^ k)) + 1) * 2 ^ k) := by
  have hpos : 0 < 2 ^ k * 2 ^ k := by positivity
  constructor
  · rw [mul_mul_mul_comm, ← Nat.le_div_iff_mul_le hpos]
    exact Nat.sqrt_le _
  · rw [mul_mul_mul_comm, ← Nat.div_lt_iff_lt_mul hpos]
    exact Nat.lt_succ_sqrt _

/-- The whole quanta below the root have 24 bits when the quantum is chosen by the root's leading bit (R53). -/
theorem sqrt_quanta_bounds {n k : ℕ} (hlow : 2 ^ (23 + k) ≤ Nat.sqrt n) (hhigh : Nat.sqrt n < 2 ^ (24 + k)) :
    2 ^ 23 ≤ Nat.sqrt (n / (2 ^ k * 2 ^ k)) ∧ Nat.sqrt (n / (2 ^ k * 2 ^ k)) < 2 ^ 24 := by
  have hpos : 0 < 2 ^ k * 2 ^ k := by positivity
  rw [pow_add, Nat.le_sqrt, mul_mul_mul_comm] at hlow
  rw [pow_add, Nat.sqrt_lt, mul_mul_mul_comm] at hhigh
  rw [Nat.le_sqrt, Nat.sqrt_lt, Nat.le_div_iff_mul_le hpos, Nat.div_lt_iff_lt_mul hpos]
  exact ⟨hlow, hhigh⟩

/-- The machine rounds the root of a representable value to the nearer of two numbers of quanta: the midpoint is never
met (R107). -/
theorem rneSqrt_rounded (x : Word) {n k : ℕ} (hn : n = mag x * scale) (hlow : 2 ^ (23 + k) ≤ Nat.sqrt n)
    (hhigh : Nat.sqrt n < 2 ^ (24 + k)) : RootRounded n (rneSqrt n k) k := by
  obtain ⟨hle, hlt⟩ := sqrt_quanta n k
  obtain ⟨hf, hf'⟩ := sqrt_quanta_bounds hlow hhigh
  have hbinade := Nat.le_sqrt.1 hlow
  have hne := midpoint_ne x k 151 hf
  have hn4 : mag x * 2 ^ 151 = 4 * n := by
    rw [hn, scale]
    omega
  rw [hn4] at hne
  simp only [rneSqrt, isqrt_eq_sqrt]
  generalize Nat.sqrt (n / (2 ^ k * 2 ^ k)) = f at *
  rcases Nat.lt_or_gt_of_ne hne with hmid | hmid
  · rw [if_neg hmid.not_gt, if_pos hmid]
    have hroot : 4 * n < 2 * ((f + 1) * 2 ^ k) * (2 * ((f + 1) * 2 ^ k)) := by
      rw [mul_mul_mul_comm]
      omega
    refine ⟨by omega, by omega, hbinade, hroot.trans_le (Nat.mul_self_le_mul_self ?_), hmid⟩
    rw [← mul_assoc]
    exact Nat.mul_le_mul_right _ (Nat.le_succ _)
  · rw [if_pos hmid]
    have hroot : 2 * (f * 2 ^ k) * (2 * (f * 2 ^ k)) ≤ 4 * n := by
      rw [mul_mul_mul_comm]
      omega
    refine ⟨by omega, by omega, hbinade, hmid, (Nat.mul_self_lt_mul_self ?_).trans_le hroot⟩
    rw [← mul_assoc]
    exact Nat.mul_lt_mul_of_pos_right (by omega) (Nat.two_pow_pos k)

/-! ### The rounded root is nearest -/

/-- Past the rounded root the midpoint lies above the root (R107). -/
theorem RootRounded.lt_of_lt {n R k : ℕ} (h : RootRounded n R k) {y : Word} (hy : R * 2 ^ k < mag y) :
    4 * n < (R * 2 ^ k + mag y) * (R * 2 ^ k + mag y) := by
  have hfirst : 2 ^ (23 + k) ≤ R * 2 ^ k := by
    rw [pow_add]
    exact Nat.mul_le_mul_right _ h.full
  have hdvd := (mag_multiple y k).resolve_left (by omega)
  refine h.lt_above.trans_le (Nat.mul_self_le_mul_self ?_)
  rcases Rounded.eq_or_quantum_apart hdvd R 1 with heq | hlt | hgt
  · omega
  · rw [Nat.add_mul, mul_assoc]
    omega
  · omega

/-- Before the rounded root the midpoint lies below the root, whether the other magnitude is a whole number of quanta or
below the binade (R107). -/
theorem RootRounded.lt_of_gt {n R k : ℕ} (h : RootRounded n R k) {y : Word} (hy : mag y < R * 2 ^ k) :
    (R * 2 ^ k + mag y) * (R * 2 ^ k + mag y) < 4 * n := by
  have hquanta {v : ℕ} (hdvd : 2 ^ k ∣ v) (hv : v < R * 2 ^ k) :
      (R * 2 ^ k + v) * (R * 2 ^ k + v) < 4 * n := by
    refine (Nat.mul_self_le_mul_self ?_).trans_lt h.below_lt
    rcases Rounded.eq_or_quantum_apart hdvd R 1 with heq | hlt | hgt
    · omega
    · omega
    · rw [Nat.sub_mul, mul_assoc]
      omega
  rcases mag_multiple y k with hlow | hdvd
  · have hfirst : 2 ^ (23 + k) ≤ R * 2 ^ k := by
      rw [pow_add]
      exact Nat.mul_le_mul_right _ h.full
    rcases hfirst.lt_or_eq with hlt | heq
    · refine (Nat.mul_self_le_mul_self ?_).trans_lt (hquanta (pow_dvd_pow 2 (Nat.le_add_left k 23)) hlt)
      omega
    · have hbinade := h.binade_le
      have hsum : (R * 2 ^ k + mag y) * (R * 2 ^ k + mag y) < 2 * 2 ^ (23 + k) * (2 * 2 ^ (23 + k)) :=
        Nat.mul_self_lt_mul_self (by omega)
      rw [mul_mul_mul_comm] at hsum
      omega
  · exact hquanta hdvd hy

/-! ### The reference square root -/

/-- The machine's rounding of a root: the quantum is chosen by the root's leading bit (R107). -/
theorem roundSqrt_eq {m k : ℕ} (hk : Nat.log2 (Nat.sqrt (m * scale)) - 23 = k) :
    roundSqrt m = packMag false (rneSqrt (m * scale) k * 2 ^ k) := by
  subst hk
  simp only [roundSqrt, isqrt_eq_sqrt]

/-- The root of a nonzero finite value, in units: far above the smallest normal and far below the overflow bound
(R107). -/
theorem sqrt_units_bounds {m : ℕ} (hm : m ≠ 0) (hlt : m < 2 ^ 24 * 2 ^ 253) :
    2 ^ 23 ≤ Nat.sqrt (m * scale) ∧ Nat.sqrt (m * scale) < 2 ^ 213 := by
  rw [Nat.le_sqrt, Nat.sqrt_lt]
  constructor
  · calc 2 ^ 23 * 2 ^ 23 ≤ 1 * scale := by decide
      _ ≤ m * scale := Nat.mul_le_mul_right _ (Nat.pos_of_ne_zero hm)
  · calc m * scale < 2 ^ 24 * 2 ^ 253 * scale := Nat.mul_lt_mul_of_pos_right hlt scale_pos
      _ = 2 ^ 213 * 2 ^ 213 := by decide

/-- The root of a nonzero finite value is rounded to `R` quanta below the overflow bound (R107). -/
theorem roundSqrt_rounded {x : Word} (hfinite : Rules.expo x ≠ 255) (hx : mag x ≠ 0) :
    ∃ R k, roundSqrt (mag x) = packMag false (R * 2 ^ k) ∧ RootRounded (mag x * scale) R k ∧
      R * 2 ^ k < 2 ^ 24 * 2 ^ 253 := by
  obtain ⟨hlarge, hsmall⟩ := sqrt_units_bounds hx ((mag_lt x hfinite).trans_eq overflow_units)
  have hroot : Nat.sqrt (mag x * scale) ≠ 0 := by omega
  obtain ⟨hlow, hhigh⟩ := log2_bounds hroot
  obtain ⟨k, hk⟩ := Nat.exists_eq_add_of_le ((Nat.le_log2 hroot).2 hlarge)
  rw [hk] at hlow hhigh
  have hround := rneSqrt_rounded x rfl hlow (by rwa [(by omega : 24 + k = 23 + k + 1)])
  refine ⟨_, k, roundSqrt_eq (by omega), hround, ?_⟩
  have hkle : k ≤ 190 := by
    have := (Nat.pow_lt_pow_iff_right (by decide : 1 < 2)).1 (hlow.trans_lt hsmall)
    omega
  calc rneSqrt (mag x * scale) k * 2 ^ k ≤ 2 ^ 24 * 2 ^ 190 :=
        Nat.mul_le_mul hround.le (Nat.pow_le_pow_right (by decide) hkle)
    _ < 2 ^ 24 * 2 ^ 253 := by decide

/-- The reference square root of a positive finite value is a normal of sign 0 whose magnitude is the rounded root; the
flush does not touch it (R101, R107). -/
theorem refFsqrt_rounded {x : Word} (hfinite : Rules.isFinite x = true) (hzero : Rules.isZero x = false)
    (hsign : Rules.sign x = 0) :
    ∃ R k, RootRounded (mag x * scale) R k ∧ Rules.isNorm (refFsqrt x) = true ∧ Rules.sign (refFsqrt x) = 0 ∧
      mag (refFsqrt x) = R * 2 ^ k := by
  have hexpo : Rules.expo x ≠ 255 := of_decide_eq_true hfinite
  have hmag : mag x ≠ 0 := fun h => Bool.false_ne_true (hzero.symm.trans ((mag_eq_zero_iff x).1 h))
  obtain ⟨R, k, hpack, hround, hlt⟩ := roundSqrt_rounded hexpo hmag
  obtain ⟨hnan, hinf⟩ := not_nan_not_inf_of_expo hexpo
  have hnative : sqrtNative x = packMag false (R * 2 ^ k) := by
    simp only [sqrtNative, isNan_rule, isZero_rule, isInf_rule, hnan, hzero, hinf, sign_of_rule (t := false) hsign, hpack,
      Bool.false_eq_true, if_false]
  obtain ⟨hsign', hexpo', hmag', hsub, -⟩ :=
    packMag_spec false hround.le (.inr hround.full) (hlt.trans_eq overflow_units.symm)
  have hnormal : Rules.expo (packMag false (R * 2 ^ k)) ≠ 0 := fun h => by
    have := Nat.mul_le_mul hround.full (Nat.one_le_two_pow (n := k))
    have := hsub.1 h
    omega
  have hflush : refFsqrt x = packMag false (R * 2 ^ k) := by
    rw [refFsqrt, hnative, flush_rule, Rules.flush, if_neg]
    exact fun h => hnormal (fields_of_isSub h).1
  rw [hflush]
  exact ⟨R, k, hround, decide_eq_true ⟨by omega, hexpo'⟩, hsign', hmag'⟩

/-- A midpoint's square against the value, in units (R107). -/
theorem square_units (a b c : ℕ) :
    (4 * ((c : ℚ) / 2 ^ 149) < (a / 2 ^ 149 + b / 2 ^ 149) ^ 2 ↔ 4 * (c * scale) < (a + b) * (a + b)) ∧
      (((a : ℚ) / 2 ^ 149 + b / 2 ^ 149) ^ 2 < 4 * (c / 2 ^ 149) ↔ (a + b) * (a + b) < 4 * (c * scale)) := by
  have hsquare : ((a : ℚ) / 2 ^ 149 + b / 2 ^ 149) ^ 2 = (((a + b) * (a + b) : ℕ) : ℚ) / (2 ^ 149 * 2 ^ 149) := by
    push_cast
    ring
  have hvalue : 4 * ((c : ℚ) / 2 ^ 149) = ((4 * (c * scale) : ℕ) : ℚ) / (2 ^ 149 * 2 ^ 149) := by
    push_cast
    rw [scale_cast]
    ring
  have hpos : (0 : ℚ) < 2 ^ 149 * 2 ^ 149 := by positivity
  rw [hsquare, hvalue, div_lt_div_iff_of_pos_right hpos, div_lt_div_iff_of_pos_right hpos, Nat.cast_lt, Nat.cast_lt]
  exact ⟨Iff.rfl, Iff.rfl⟩

/-- Settles O47: the special operands are the first four cases, and the rounded root's midpoints to either side have the
root between them. -/
theorem refFsqrtIsNearestRoot : Obligations.RefFsqrtIsNearestRoot := by
  have hqnan : flush generatedNan = 0x7FC00000#32 := by decide
  refine ⟨fun a hnan => ?nan, fun a hzero => ?zero, fun a hsign hzero => ?negative, by decide,
    fun a hfinite hzero hsign => ?root⟩
  case nan => rw [refFsqrt, sqrtNative, isNan_rule, if_pos hnan, hqnan]
  case zero =>
    obtain ⟨hexpo, -⟩ := of_decide_eq_true hzero
    have hnan : ¬ Rules.isNan a = true := by simp [(not_nan_not_inf_of_expo (x := a) (by omega)).1]
    rw [refFsqrt, sqrtNative, isNan_rule, isZero_rule, if_neg hnan, if_pos hzero]
    exact flush_of_scale_dvd_mag ((mag_eq_zero_iff a).2 hzero ▸ dvd_zero scale)
  case negative =>
    rw [refFsqrt, sqrtNative, isZero_rule, if_neg (Bool.eq_false_iff.1 hzero), if_pos ((sign_eq_true_iff a).2 hsign),
      ite_self, hqnan]
  case root =>
    obtain ⟨R, k, hround, hnorm, hsign', hmag⟩ := refFsqrt_rounded hfinite hzero hsign
    refine ⟨hnorm, hsign', fun y _ hysign => ?_⟩
    have hunit : (0 : ℚ) < 2 ^ 149 := by positivity
    obtain ⟨habove, hbelow⟩ := square_units (R * 2 ^ k) (mag y) (mag a)
    rw [val_of_sign_zero hsign', val_of_sign_zero hysign, val_of_sign_zero hsign, hmag, habove, hbelow,
      div_lt_div_iff_of_pos_right hunit, div_lt_div_iff_of_pos_right hunit, Nat.cast_lt, Nat.cast_lt]
    exact ⟨hround.lt_of_lt, hround.lt_of_gt⟩

end Sys2Proof.Proofs
end
